-- ==== Sys2Proof/Word.lean ====
section
/-! DEFINITION. The words of the machine: the 8-bit byte of memory and of the V registers (R22, R50) and the 16-bit word of
`PC`, `I`, the stack entries and an instruction (R25, R26, R27, R72). -/

namespace Sys2Proof

/-- One byte: a memory cell, a general register, a timer (R22, R28, R50). -/
abbrev Byte := BitVec 8

/-- One 16-bit word: an instruction, `PC`, `I`, a return address (R25, R26, R27, R72). -/
abbrev Word := BitVec 16

end Sys2Proof
end

