-- ==== Sys2Proof/Machine/Flags.lean ====
section
/-! DEFINITION. The flag computations (10_state.md rule R23). VF is the only flag register; each of these is one value that an
instruction writes to it, last (R112). -/

namespace Sys2Proof.Machine

/-- A flag as the byte that VF receives: 1 or 0. -/
def flagByte (f : Bool) : Byte := if f then 1#8 else 0#8

/-- Carry of `ADD Vx, Vy`: the 9-bit sum exceeds 255 (R106). -/
def addCarry (a b : Byte) : Bool := decide (a.toNat + b.toNat > 255)

/-- No-borrow of `a - b` (`SUB`, `SUBN`): a ≥ b (R107, R109). -/
def noBorrow (a b : Byte) : Bool := decide (b.toNat ≤ a.toNat)

/-- The bit that `SHR` shifts out: bit 0 (R108). -/
def shiftedOutRight (src : Byte) : Bool := src.getLsbD 0

/-- The bit that `SHL` shifts out: bit 7 (R110). -/
def shiftedOutLeft (src : Byte) : Bool := src.getLsbD 7

/-- The flag of `ADD I, Vx` under `QUIRK_ADDI_FLAG`: the sum exceeds 0xFFF (R171). -/
def addIOverflow (i : Word) (b : Byte) : Bool := decide (i.toNat + b.toNat > 0xFFF)

end Sys2Proof.Machine
end

