-- ==== Sys2Proof/WellFormed.lean ====
section
/-! DEFINITION. Which instructions are well formed. The register numbers, the immediate byte and the row count are bounded by
their types (R22, R73, R74), so the one check left is the address operand of the four instructions of format NNN: 12 bits,
zero-extended to 16 (R74). -/

namespace Sys2Proof

/-- An address operand is a 12-bit value (R73, R74). -/
def addrFits (nnn : Word) : Bool := decide (nnn.toNat ≤ 0xFFF)

/-- The instruction is one that a 16-bit word of R76 can hold. -/
def Instr.wellFormed : Instr → Bool
  | .jp nnn => addrFits nnn
  | .call nnn => addrFits nnn
  | .ldI nnn => addrFits nnn
  | .jpV0 nnn => addrFits nnn
  | .cls => true
  | .ret => true
  | .seByte _ _ => true
  | .sneByte _ _ => true
  | .seReg _ _ => true
  | .ldByte _ _ => true
  | .addByte _ _ => true
  | .ldReg _ _ => true
  | .orReg _ _ => true
  | .andReg _ _ => true
  | .xorReg _ _ => true
  | .addReg _ _ => true
  | .subReg _ _ => true
  | .shr _ _ => true
  | .subn _ _ => true
  | .shl _ _ => true
  | .sneReg _ _ => true
  | .rnd _ _ => true
  | .drw _ _ _ => true
  | .skp _ => true
  | .sknp _ => true
  | .ldVxDt _ => true
  | .ldVxK _ => true
  | .ldDtVx _ => true
  | .ldStVx _ => true
  | .addI _ => true
  | .ldF _ => true
  | .ldB _ => true
  | .storeRegs _ => true
  | .loadRegs _ => true

end Sys2Proof
end

