-- ==== Sys2Proof/Decode.lean ====
section
/-! DEFINITION. Decoding and encoding (30_encoding.md): the field extraction of R73, the switch of R75 over the high nibble and
the secondary fields, the opcode table of R76 as match and mask pairs, and the encoder written from the formats of R72.
`Decode` depends on the word alone (R71). -/

namespace Sys2Proof

/-- Why bytes are no instruction. -/
inductive Reject where
  /-- Fewer than two bytes stand there: no instruction is shorter than one word (R72, R88). The step never meets it, since a
  fetch that cannot read both bytes faults first (R53). -/
  | truncated
  /-- The word matches no row of R76: the verdict `UnknownInstruction` (R84). -/
  | unknownInstruction (w : Word)
  deriving DecidableEq, Repr

/-! ### Fields of a word (R73) -/

/-- `op = w[15:12]` -/
def fieldOp (w : Word) : BitVec 4 := w.extractLsb 15 12

/-- `x = w[11:8]`, a register's number -/
def fieldX (w : Word) : Reg := (w.extractLsb 11 8 : BitVec 4).toFin

/-- `y = w[7:4]`, a register's number -/
def fieldY (w : Word) : Reg := (w.extractLsb 7 4 : BitVec 4).toFin

/-- `n = w[3:0]` -/
def fieldN (w : Word) : BitVec 4 := w.extractLsb 3 0

/-- `kk = w[7:0]` -/
def fieldKk (w : Word) : Byte := w.extractLsb 7 0

/-- `nnn = w[11:0]`, zero-extended to 16 bits (R74) -/
def fieldNnn (w : Word) : Word := (w.extractLsb 11 0 : BitVec 12).setWidth 16

/-! ### The opcode map (R75) -/

/-- Group 0: the whole word selects. -/
def decodeGroup0 (w : Word) : Option Instr :=
  if w = 0x00E0#16 then some .cls
  else if w = 0x00EE#16 then some .ret
  else none

/-- Group 8: `n` selects. -/
def decodeGroup8 (w : Word) : Option Instr :=
  match (fieldN w).toNat with
  | 0x0 => some (.ldReg (fieldX w) (fieldY w))
  | 0x1 => some (.orReg (fieldX w) (fieldY w))
  | 0x2 => some (.andReg (fieldX w) (fieldY w))
  | 0x3 => some (.xorReg (fieldX w) (fieldY w))
  | 0x4 => some (.addReg (fieldX w) (fieldY w))
  | 0x5 => some (.subReg (fieldX w) (fieldY w))
  | 0x6 => some (.shr (fieldX w) (fieldY w))
  | 0x7 => some (.subn (fieldX w) (fieldY w))
  | 0xE => some (.shl (fieldX w) (fieldY w))
  | _ => none

/-- Group E: `kk` selects. -/
def decodeGroupE (w : Word) : Option Instr :=
  if fieldKk w = 0x9E#8 then some (.skp (fieldX w))
  else if fieldKk w = 0xA1#8 then some (.sknp (fieldX w))
  else none

/-- Group F: `kk` selects. -/
def decodeGroupF (w : Word) : Option Instr :=
  if fieldKk w = 0x07#8 then some (.ldVxDt (fieldX w))
  else if fieldKk w = 0x0A#8 then some (.ldVxK (fieldX w))
  else if fieldKk w = 0x15#8 then some (.ldDtVx (fieldX w))
  else if fieldKk w = 0x18#8 then some (.ldStVx (fieldX w))
  else if fieldKk w = 0x1E#8 then some (.addI (fieldX w))
  else if fieldKk w = 0x29#8 then some (.ldF (fieldX w))
  else if fieldKk w = 0x33#8 then some (.ldB (fieldX w))
  else if fieldKk w = 0x55#8 then some (.storeRegs (fieldX w))
  else if fieldKk w = 0x65#8 then some (.loadRegs (fieldX w))
  else none

/-- The switch of R75: first the high nibble, then the group's secondary field. `none` is the verdict `UnknownInstruction`. -/
def decodeOp (w : Word) : Option Instr :=
  match (fieldOp w).toNat with
  | 0x0 => decodeGroup0 w
  | 0x1 => some (.jp (fieldNnn w))
  | 0x2 => some (.call (fieldNnn w))
  | 0x3 => some (.seByte (fieldX w) (fieldKk w))
  | 0x4 => some (.sneByte (fieldX w) (fieldKk w))
  | 0x5 => if fieldN w = 0#4 then some (.seReg (fieldX w) (fieldY w)) else none
  | 0x6 => some (.ldByte (fieldX w) (fieldKk w))
  | 0x7 => some (.addByte (fieldX w) (fieldKk w))
  | 0x8 => decodeGroup8 w
  | 0x9 => if fieldN w = 0#4 then some (.sneReg (fieldX w) (fieldY w)) else none
  | 0xA => some (.ldI (fieldNnn w))
  | 0xB => some (.jpV0 (fieldNnn w))
  | 0xC => some (.rnd (fieldX w) (fieldKk w))
  | 0xD => some (.drw (fieldX w) (fieldY w) (fieldN w).toFin)
  | 0xE => decodeGroupE w
  | _ => decodeGroupF w

/-- `Decode(w)` (R71): an instruction with its fields extracted, or the verdict `UnknownInstruction` (R84). Total on all 65536
words. -/
def decodeWord (w : Word) : Except Reject Instr :=
  match decodeOp w with
  | some i => .ok i
  | none => .error (.unknownInstruction w)

/-- The 16-bit word of two bytes, the byte of the lower address first and highest (big-endian, R52). -/
def wordOfBytes (hi lo : Byte) : Word := hi ++ lo

/-- The high byte of a word, which stands at the lower address (R52). -/
def highByte (w : Word) : Byte := w.extractLsb 15 8

/-- The low byte of a word (R52). -/
def lowByte (w : Word) : Byte := w.extractLsb 7 0

/-- Decoding from a list of bytes: one instruction, always two bytes (R72, R88), and the bytes after it. -/
def decodeBytes : List Byte → Except Reject (Instr × List Byte)
  | hi :: lo :: rest =>
    match decodeWord (wordOfBytes hi lo) with
    | .ok i => .ok (i, rest)
    | .error r => .error r
  | _ => .error .truncated

/-! ### The encoder (R72, R76) -/

/-- A register's number as the four bits of a field. -/
def regBits (r : Reg) : BitVec 4 := BitVec.ofFin r

/-- Format NNN: `oooo nnnn nnnn nnnn`. -/
def formatNNN (op : BitVec 4) (nnn : Word) : Word := op ++ nnn.extractLsb 11 0

/-- Format XKK: `oooo xxxx kkkk kkkk`. -/
def formatXKK (op : BitVec 4) (x : Reg) (kk : Byte) : Word := (op ++ regBits x) ++ kk

/-- Format XYN: `oooo xxxx yyyy nnnn`. -/
def formatXYN (op : BitVec 4) (x y : Reg) (n : BitVec 4) : Word := (op ++ regBits x) ++ (regBits y ++ n)

/-- Format XFF: `oooo xxxx oooo oooo`. -/
def formatXFF (op : BitVec 4) (x : Reg) (fn : Byte) : Word := (op ++ regBits x) ++ fn

/-- The word of an instruction, from the patterns of R76. Of an address operand only bits 11 to 0 are encoded, which is all of
it for a well-formed instruction. -/
def encode : Instr → Word
  | .cls => 0x00E0#16
  | .ret => 0x00EE#16
  | .jp nnn => formatNNN 0x1#4 nnn
  | .call nnn => formatNNN 0x2#4 nnn
  | .seByte x kk => formatXKK 0x3#4 x kk
  | .sneByte x kk => formatXKK 0x4#4 x kk
  | .seReg x y => formatXYN 0x5#4 x y 0x0#4
  | .ldByte x kk => formatXKK 0x6#4 x kk
  | .addByte x kk => formatXKK 0x7#4 x kk
  | .ldReg x y => formatXYN 0x8#4 x y 0x0#4
  | .orReg x y => formatXYN 0x8#4 x y 0x1#4
  | .andReg x y => formatXYN 0x8#4 x y 0x2#4
  | .xorReg x y => formatXYN 0x8#4 x y 0x3#4
  | .addReg x y => formatXYN 0x8#4 x y 0x4#4
  | .subReg x y => formatXYN 0x8#4 x y 0x5#4
  | .shr x y => formatXYN 0x8#4 x y 0x6#4
  | .subn x y => formatXYN 0x8#4 x y 0x7#4
  | .shl x y => formatXYN 0x8#4 x y 0xE#4
  | .sneReg x y => formatXYN 0x9#4 x y 0x0#4
  | .ldI nnn => formatNNN 0xA#4 nnn
  | .jpV0 nnn => formatNNN 0xB#4 nnn
  | .rnd x kk => formatXKK 0xC#4 x kk
  | .drw x y n => formatXYN 0xD#4 x y (BitVec.ofFin n)
  | .skp x => formatXFF 0xE#4 x 0x9E#8
  | .sknp x => formatXFF 0xE#4 x 0xA1#8
  | .ldVxDt x => formatXFF 0xF#4 x 0x07#8
  | .ldVxK x => formatXFF 0xF#4 x 0x0A#8
  | .ldDtVx x => formatXFF 0xF#4 x 0x15#8
  | .ldStVx x => formatXFF 0xF#4 x 0x18#8
  | .addI x => formatXFF 0xF#4 x 0x1E#8
  | .ldF x => formatXFF 0xF#4 x 0x29#8
  | .ldB x => formatXFF 0xF#4 x 0x33#8
  | .storeRegs x => formatXFF 0xF#4 x 0x55#8
  | .loadRegs x => formatXFF 0xF#4 x 0x65#8

/-- An instruction as the two bytes that memory holds, the high byte at the lower address (R52). -/
def encodeBytes (i : Instr) : List Byte := [highByte (encode i), lowByte (encode i)]

/-! ### The opcode table as match and mask pairs (R76) -/

/-- One row of R76: the word `w` is this row's when `w & mask = pattern`. -/
structure OpcodeRow where
  mnemonic : String
  pattern : Word
  mask : Word
  deriving DecidableEq, Repr

/-- The word `w` matches the row (R76). -/
def OpcodeRow.matches (r : OpcodeRow) (w : Word) : Bool := (w &&& r.mask) == r.pattern

/-- Rows of the groups 0 to 7 (R76). -/
def opcodeRows0to7 : List OpcodeRow := [
  ⟨"CLS", 0x00E0, 0xFFFF⟩, ⟨"RET", 0x00EE, 0xFFFF⟩, ⟨"JP_addr", 0x1000, 0xF000⟩, ⟨"CALL_addr", 0x2000, 0xF000⟩,
  ⟨"SE_Vx__byte", 0x3000, 0xF000⟩, ⟨"SNE_Vx__byte", 0x4000, 0xF000⟩, ⟨"SE_Vx__Vy", 0x5000, 0xF00F⟩,
  ⟨"LD_Vx__byte", 0x6000, 0xF000⟩, ⟨"ADD_Vx__byte", 0x7000, 0xF000⟩]

/-- Rows of the groups 8 to D (R76). -/
def opcodeRows8toD : List OpcodeRow := [
  ⟨"LD_Vx__Vy", 0x8000, 0xF00F⟩, ⟨"OR_Vx__Vy", 0x8001, 0xF00F⟩, ⟨"AND_Vx__Vy", 0x8002, 0xF00F⟩,
  ⟨"XOR_Vx__Vy", 0x8003, 0xF00F⟩, ⟨"ADD_Vx__Vy", 0x8004, 0xF00F⟩, ⟨"SUB_Vx__Vy", 0x8005, 0xF00F⟩,
  ⟨"SHR_Vx__Vy", 0x8006, 0xF00F⟩, ⟨"SUBN_Vx__Vy", 0x8007, 0xF00F⟩, ⟨"SHL_Vx__Vy", 0x800E, 0xF00F⟩,
  ⟨"SNE_Vx__Vy", 0x9000, 0xF00F⟩, ⟨"LD_I__addr", 0xA000, 0xF000⟩, ⟨"JP_V0__addr", 0xB000, 0xF000⟩,
  ⟨"RND_Vx__byte", 0xC000, 0xF000⟩, ⟨"DRW_Vx__Vy__n", 0xD000, 0xF000⟩]

/-- Rows of the groups E and F (R76). -/
def opcodeRowsEtoF : List OpcodeRow := [
  ⟨"SKP_Vx", 0xE09E, 0xF0FF⟩, ⟨"SKNP_Vx", 0xE0A1, 0xF0FF⟩, ⟨"LD_Vx__DT", 0xF007, 0xF0FF⟩, ⟨"LD_Vx__K", 0xF00A, 0xF0FF⟩,
  ⟨"LD_DT__Vx", 0xF015, 0xF0FF⟩, ⟨"LD_ST__Vx", 0xF018, 0xF0FF⟩, ⟨"ADD_I__Vx", 0xF01E, 0xF0FF⟩, ⟨"LD_F__Vx", 0xF029, 0xF0FF⟩,
  ⟨"LD_B__Vx", 0xF033, 0xF0FF⟩, ⟨"LD__I___Vx", 0xF055, 0xF0FF⟩, ⟨"LD_Vx___I", 0xF065, 0xF0FF⟩]

/-- The 34 rows of R76, in the table's order. The decoder does not read it: it says the same by match and mask, so that the two
can be held against each other. -/
def opcodeTable : List OpcodeRow := opcodeRows0to7 ++ opcodeRows8toD ++ opcodeRowsEtoF

/-- The mnemonic of an instruction's row, as the table spells it (R76). -/
def Instr.mnemonic : Instr → String
  | .cls => "CLS"
  | .ret => "RET"
  | .jp _ => "JP_addr"
  | .call _ => "CALL_addr"
  | .seByte _ _ => "SE_Vx__byte"
  | .sneByte _ _ => "SNE_Vx__byte"
  | .seReg _ _ => "SE_Vx__Vy"
  | .ldByte _ _ => "LD_Vx__byte"
  | .addByte _ _ => "ADD_Vx__byte"
  | .ldReg _ _ => "LD_Vx__Vy"
  | .orReg _ _ => "OR_Vx__Vy"
  | .andReg _ _ => "AND_Vx__Vy"
  | .xorReg _ _ => "XOR_Vx__Vy"
  | .addReg _ _ => "ADD_Vx__Vy"
  | .subReg _ _ => "SUB_Vx__Vy"
  | .shr _ _ => "SHR_Vx__Vy"
  | .subn _ _ => "SUBN_Vx__Vy"
  | .shl _ _ => "SHL_Vx__Vy"
  | .sneReg _ _ => "SNE_Vx__Vy"
  | .ldI _ => "LD_I__addr"
  | .jpV0 _ => "JP_V0__addr"
  | .rnd _ _ => "RND_Vx__byte"
  | .drw _ _ _ => "DRW_Vx__Vy__n"
  | .skp _ => "SKP_Vx"
  | .sknp _ => "SKNP_Vx"
  | .ldVxDt _ => "LD_Vx__DT"
  | .ldVxK _ => "LD_Vx__K"
  | .ldDtVx _ => "LD_DT__Vx"
  | .ldStVx _ => "LD_ST__Vx"
  | .addI _ => "ADD_I__Vx"
  | .ldF _ => "LD_F__Vx"
  | .ldB _ => "LD_B__Vx"
  | .storeRegs _ => "LD__I___Vx"
  | .loadRegs _ => "LD_Vx___I"

/-! ### The host's word for one row of the table -/

/-- The instruction that the decoder reads from the word `w` of `nbits` bits. The word is laid out as the hardware stores it
(big-endian, R52); the bits above `nbits` are 0. -/
def decodeTableWord (nbits w : Nat) : Option Instr :=
  let word : Word := BitVec.ofNat 16 (w % 2 ^ nbits)
  match decodeBytes [highByte word, lowByte word] with
  | .ok (i, _) => some i
  | .error _ => none

end Sys2Proof
end

