-- ==== Sys2Proof/Config.lean ====
section
/-! DEFINITION. The implementation parameters of 00_scope.md rule R9: the fixed sizes, the type of the quirk settings, and the
one free value of the spec, the draw behind `RND` (R118). The DEFAULT quirk settings and the font bytes stand in
Sys2Proof/Machine/Defaults.lean. -/

namespace Sys2Proof

/-- `MEM_SIZE` (R9, R50): 4096 bytes, addresses 0x000 to 0xFFF. -/
abbrev Config.memSize : Nat := 0x1000

/-- `STACK_DEPTH` (R9, R27): 16 return addresses. -/
abbrev Config.stackDepth : Nat := 16

/-- `PROGRAM_BASE` (R9, R55): the reset value of `PC`, and the first address that an instruction may write (R58). -/
abbrev Config.programBase : Nat := 0x200

/-- `MAX_ROM` (R9, R218): the longest ROM, 0xFFF - 0x200 + 1 bytes. -/
abbrev Config.maxRom : Nat := 3584

/-- `FONT_BASE` (R9, R55). -/
abbrev Config.fontBase : Nat := 0x050

/-- `FONT_GLYPH_BYTES` (R9, R55): one glyph is 5 bytes, one byte a row. -/
abbrev Config.glyphBytes : Nat := 5

/-- `FB_W` (R9, R29): 64 columns. -/
abbrev Config.fbWidth : Nat := 64

/-- `FB_H` (R9, R29): 32 rows. -/
abbrev Config.fbHeight : Nat := 32

/-- `NUM_KEYS` (R9, R32): 16 keys. -/
abbrev Config.numKeys : Nat := 16

/-- The quirk parameters of R9, each ONE configuration point (R10) and each a boolean (93_implementation_defined.md U25). -/
structure Quirks where
  /-- `QUIRK_SHIFT_USES_VY`: `SHR` and `SHL` read Vy (R108, R110). -/
  shiftUsesVy : Bool
  /-- `QUIRK_DRAW_WRAP`: a pixel off the screen wraps and is not clipped (R132). -/
  drawWrap : Bool
  /-- `QUIRK_ADDI_FLAG`: `ADD I, Vx` writes VF (R171). -/
  addIFlag : Bool
  /-- `QUIRK_LOGIC_RESETS_VF`: `OR`, `AND`, `XOR` end with VF = 0 (R103 to R105). -/
  logicResetsVf : Bool
  /-- `QUIRK_JUMP_VX`: `JP V0, addr` adds Vx, x = nnn[11:8], and not V0 (R143). -/
  jumpVx : Bool
  /-- `QUIRK_LOADSTORE_INCREMENTS_I`: `LD [I], Vx` and `LD Vx, [I]` end with I + x + 1 in I (R174, R175). -/
  loadStoreIncrementsI : Bool
  /-- `PROTECT_LOW_MEMORY`: a write by an instruction below 0x200 raises `OutOfBoundsAccess` (R58). -/
  protectLowMemory : Bool
  deriving DecidableEq, Repr

/-- `rand8()` (R118): the k-th 8-bit draw of a run. A FREE VALUE: it has no body, so nothing can be proved of it, and a
claim about `RND` holds for every draw. -/
opaque Config.rand8 : Nat → Byte

end Sys2Proof
end

