-- ==== Sys2Proof/Machine/Defaults.lean ====
section
/-! DEFINITION. The values of the parameters of 00_scope.md rule R9 that a test could show wrong: the default quirk settings and
the 80 bytes of the font (20_memory.md rule R56). -/

namespace Sys2Proof.Machine

/-- The quirk settings of R9, the ones every rule and vector of the spec uses unless it says otherwise. -/
def defaultQuirks : Quirks where
  shiftUsesVy := true
  drawWrap := false
  addIFlag := false
  logicResetsVf := true
  jumpVx := false
  loadStoreIncrementsI := true
  protectLowMemory := true

/-- `FONT_DATA`, digits 0 to 7 (R56). -/
def fontData0to7 : List Byte :=
  [0xF0, 0x90, 0x90, 0x90, 0xF0] ++ [0x20, 0x60, 0x20, 0x20, 0x70] ++ [0xF0, 0x10, 0xF0, 0x80, 0xF0] ++
  [0xF0, 0x10, 0xF0, 0x10, 0xF0] ++ [0x90, 0x90, 0xF0, 0x10, 0x10] ++ [0xF0, 0x80, 0xF0, 0x10, 0xF0] ++
  [0xF0, 0x80, 0xF0, 0x90, 0xF0] ++ [0xF0, 0x10, 0x20, 0x40, 0x40]

/-- `FONT_DATA`, digits 8 to F (R56). -/
def fontData8toF : List Byte :=
  [0xF0, 0x90, 0xF0, 0x90, 0xF0] ++ [0xF0, 0x90, 0xF0, 0x10, 0xF0] ++ [0xF0, 0x90, 0xF0, 0x90, 0x90] ++
  [0xE0, 0x90, 0xE0, 0x90, 0xE0] ++ [0xF0, 0x80, 0x80, 0x80, 0xF0] ++ [0xE0, 0x90, 0x90, 0x90, 0xE0] ++
  [0xF0, 0x80, 0xF0, 0x80, 0xF0] ++ [0xF0, 0x80, 0xF0, 0x80, 0x80]

/-- `FONT_DATA` (R56): 16 glyphs of 5 bytes, which reset places at `FONT_BASE`. -/
def fontData : List Byte := fontData0to7 ++ fontData8toF

end Sys2Proof.Machine
end

