-- ==== Sys2Proof/Machine/State.lean ====
section
/-! DEFINITION. The machine's state as plain data: the aggregate `S` of 10_state.md rule R20, the keypad input that a step reads
(R32), the count of draws behind `RND` (R118) and the quirk settings the machine is configured with (R9, R10); the reasons a step
can stop; and the state after reset (R37, R230). -/

namespace Sys2Proof.Machine

/-- `MEM` (R50): the bytes that differ from what an unlisted address reads as, by rising address. The canonical form is
`Memory.wf`, and what an unlisted address reads as is `Memory.unlisted` (both in Machine/Memory.lean). -/
abbrev Memory := List Host.Cell

/-- The keypad, bit k for key k, 1 when pressed (R32, R163). -/
abbrev Keypad := BitVec 16

/-- The framebuffer (R29): 32 rows of 64 one-bit pixels. Bit c of row r is `FB[r][c]`. -/
abbrev Framebuffer := Vector (BitVec 64) 32

/-- The record of a fault of the machine (R200, R202). `pc` is the address that the step fetched from. Taking one is a NEXT
state in mode `Faulted` (R204), not an outcome that stops the model. -/
inductive FaultRecord where
  /-- Decode: the word matches no row of R76 (R84). -/
  | unknownInstruction (pc word : Word)
  /-- `CALL` with 16 return addresses held (R141). -/
  | stackOverflow (pc : Word)
  /-- `RET` with an empty stack (R142). -/
  | stackUnderflow (pc : Word)
  /-- Fetch, `DRW`, `LD B, Vx`, `LD [I], Vx`, `LD Vx, [I]`: `addr` is the lowest address that fails its check (R51, R58, R202). -/
  | outOfBoundsAccess (pc : Word) (addr : Nat)
  deriving DecidableEq, Repr

/-- The address of the faulting instruction, which every record holds (R202). -/
def FaultRecord.pc : FaultRecord → Word
  | .unknownInstruction pc _ => pc
  | .stackOverflow pc => pc
  | .stackUnderflow pc => pc
  | .outOfBoundsAccess pc _ => pc

/-- `MODE` (R30). -/
inductive Mode where
  /-- The next step fetches at `PC`. -/
  | running
  /-- A key-wait is in progress: its destination register and the keypad it observed last (R163). -/
  | blocked (x : Reg) (prev : Keypad)
  /-- A fatal error was raised; only reset leaves this mode (R205). -/
  | faulted (f : FaultRecord)
  deriving DecidableEq, Repr

/-- The state of the machine. -/
structure State where
  /-- `MEM` (R35, R50). -/
  mem : Memory
  /-- `V[0]` to `V[15]` (R22). -/
  v : Vector Byte 16
  /-- `I`, the index register (R25). -/
  i : Word
  /-- `PC` (R26): in mode `Running`, the address of the next instruction to fetch. -/
  pc : Word
  /-- `STACK`, 16 return addresses (R27). -/
  stack : Vector Word 16
  /-- `SP`, how many entries of `STACK` are in use: 0 to 16 (R27). -/
  sp : Fin 17
  /-- `DT`, the delay timer (R28). -/
  dt : Byte
  /-- `ST`, the sound timer (R28). -/
  st : Byte
  /-- `FB` (R29). -/
  fb : Framebuffer
  /-- `MODE` (R30). -/
  mode : Mode
  /-- `KEY`, the keypad input as it stands (R32). It is no part of `S`: no step and no reset writes it (R231). DESIGN CHOICE: it
  stands here (notes/assumptions/2.md). -/
  keys : Keypad
  /-- How many draws of `rand8` were made. DESIGN CHOICE, the model's own field: it makes every draw a fresh one (R118,
  notes/assumptions/3.md). -/
  draws : Nat
  /-- The quirk settings of R9. They are no part of `S` but the machine's configuration: nothing writes them (R20). DESIGN CHOICE:
  they stand here (notes/assumptions/1.md). -/
  quirks : Quirks
  deriving DecidableEq, Repr

/-- Why a step stops the model with a fault: never. Every fault that the spec names leads to the mode `Faulted`, in which steps
go on and change nothing (R204, R205), so this type has no constructor. DEDUCED, safe: nothing raises it
(notes/assumptions/4.md). -/
inductive Fault where
  deriving DecidableEq, Repr

/-- Why a step is refused. -/
inductive Refusal where
  /-- An instruction that has no meaning in Machine/Dispatch.lean yet. Every instruction has one, so nothing raises it. Safe. -/
  | notModelled (mnemonic : String)
  deriving DecidableEq, Repr

/-- The machine right after reset with no ROM loaded (R37, R230). `keys`, `draws` and `quirks` are no part of `S`; their values
here are in notes/assumptions/2.md (DESIGN CHOICE, unsafe), 3.md and 1.md (DESIGN CHOICE, safe). -/
def State.reset : State where
  mem := []
  v := Vector.replicate 16 0#8
  i := 0#16
  pc := BitVec.ofNat 16 Config.programBase
  stack := Vector.replicate 16 0#16
  sp := 0
  dt := 0#8
  st := 0#8
  fb := Vector.replicate 32 0#64
  mode := .running
  keys := 0#16
  draws := 0
  quirks := defaultQuirks

end Sys2Proof.Machine
end

