-- ==== Sys2Proof/Machine/Memory.lean ====
section
/-! DEFINITION. Memory (20_memory.md): what an unlisted address reads as, reading and writing one byte, the canonical form, the
checked read of R59 and the fetch of a word (R52, R53). -/

namespace Sys2Proof.Machine

/-- What an address that the list does not name reads as: the reset contents, the font at `FONT_BASE` and 0x00 elsewhere (R37,
R55, R56). DEDUCED (notes/assumptions/6.md). -/
def Memory.unlisted (a : Nat) : Byte :=
  if a < Config.fontBase then 0x00#8 else fontData.getD (a - Config.fontBase) 0x00#8

/-- The byte at an address, with no check (R61). -/
def Memory.read : Memory → Nat → Byte
  | [], a => Memory.unlisted a
  | c :: m, a => if c.1 = a then c.2 else Memory.read m a

/-- The list with the byte `b` at the address `a`, in canonical form: a byte that an unlisted address reads as is not listed. -/
def Memory.write : Memory → Nat → Byte → Memory
  | [], a, b => if b = Memory.unlisted a then [] else [(a, b)]
  | c :: m, a, b =>
    if c.1 < a then c :: Memory.write m a b
    else
      let above := if c.1 = a then m else c :: m
      if b = Memory.unlisted a then above else (a, b) :: above

/-- Bytes written one by one at ascending addresses from `a` on (R57). -/
def Memory.writeBytes : Memory → Nat → List Byte → Memory
  | m, _, [] => m
  | m, a, b :: bs => Memory.writeBytes (Memory.write m a b) (a + 1) bs

/-- The `n` bytes at ascending addresses from `a` on (R57). -/
def Memory.readBytes (m : Memory) (a n : Nat) : List Byte := (List.range n).map fun j => Memory.read m (a + j)

/-- The canonical form: addresses within memory (R50) and strictly rising, and no entry equal to what an unlisted address
reads as. -/
abbrev Memory.wf (m : Memory) : Prop :=
  m.Pairwise (fun c d => c.1 < d.1) ∧ ∀ c ∈ m, c.1 < Config.memSize ∧ c.2 ≠ Memory.unlisted c.1

/-- `MemRead(a, 1)` (R51, R59): the byte, or the address of an out-of-bounds access. -/
def Memory.checkedRead (m : Memory) (a : Nat) : Except Nat Byte :=
  if a > 0xFFF then .error a else .ok (Memory.read m a)

/-- `FetchWord(a)` (R14, R52, R53): the big-endian word of two checked reads, or the address of the read that fails. -/
def Memory.fetchWord (m : Memory) (a : Nat) : Except Nat Word :=
  match Memory.checkedRead m a with
  | .error e => .error e
  | .ok hi =>
    match Memory.checkedRead m (a + 1) with
    | .error e => .error e
    | .ok lo => .ok (wordOfBytes hi lo)

/-- A read of the address `a` by an instruction fails its check (R51). -/
def badRead (a : Nat) : Bool := decide (a > 0xFFF)

/-- A write of the address `a` by an instruction fails its check (R51, R58, R59). -/
def badWrite (q : Quirks) (a : Nat) : Bool := decide (a > 0xFFF) || (q.protectLowMemory && decide (a < Config.programBase))

/-- The lowest of the `n` addresses `base`, `base + 1`, … that fails the check, in the order in which an instruction makes its
checks (R57, R134, R173 to R175); the addresses are computed without wrap (R176). -/
def firstBad (bad : Nat → Bool) (base n : Nat) : Option Nat := ((List.range n).map (base + ·)).find? bad

end Sys2Proof.Machine
end

