-- ==== Sys2Proof/Machine/Operands.lean ====
section
/-! DEFINITION. Results and operand forms that more than one rule uses: sums and differences cut to a width (R13), the shift
source (R108), the offset of `JP V0` (R143), the low nibble that names a key or a digit (R160, R172), decimal digits (R173). -/

namespace Sys2Proof.Machine

/-- `trunc_8(a + b)` (R101, R106). -/
def sum8 (a b : Byte) : Byte := BitVec.ofNat 8 (a.toNat + b.toNat)

/-- `trunc_8(a + 256 - b)` (R107, R109). -/
def diff8 (a b : Byte) : Byte := BitVec.ofNat 8 (a.toNat + 256 - b.toNat)

/-- `trunc_16(i + b)` (R171). -/
def sumI (i : Word) (b : Byte) : Word := BitVec.ofNat 16 (i.toNat + b.toNat)

/-- The value a shift shifts: Vy under `QUIRK_SHIFT_USES_VY`, else Vx (R108, R110). -/
def shiftSource (q : Quirks) (vx vy : Byte) : Byte := if q.shiftUsesVy then vy else vx

/-- The register whose value `JP V0, addr` adds: V0, or under `QUIRK_JUMP_VX` the one that nnn[11:8] names (R143). -/
def jumpOffsetReg (q : Quirks) (nnn : Word) : Reg :=
  if q.jumpVx then (nnn.extractLsb 11 8 : BitVec 4).toFin else 0

/-- `V[x] & 0xF`: the key or the digit that a register names (R160, R161, R172). -/
def lowNibble (b : Byte) : Nat := b.toNat % 16

/-- `FONT_BASE + 5 * digit`: where the glyph of a digit stands (R172). -/
def glyphAddress (digit : Nat) : Word := BitVec.ofNat 16 (Config.fontBase + Config.glyphBytes * digit)

/-- The hundreds, the tens and the ones of a byte, in the order of their addresses (R173). -/
def decimalDigits (b : Byte) : List Byte :=
  [BitVec.ofNat 8 (b.toNat / 100), BitVec.ofNat 8 (b.toNat / 10 % 10), BitVec.ofNat 8 (b.toNat % 10)]

/-- The lowest key that is pressed now and was not in `prev` (R164, R165). -/
def lowestNewKey (keys prev : Keypad) : Option Nat :=
  (List.range Config.numKeys).find? fun k => keys.getLsbD k && !prev.getLsbD k

end Sys2Proof.Machine
end

