-- ==== Sys2Proof/Machine/Ops.lean ====
section
/-! DEFINITION. The named operations over the state that the meanings are written with: reading and writing each register
(the one home of each), reading and writing memory, moving `PC`, writing a result and then its flag, and taking a fault. -/

namespace Sys2Proof.Machine

/-- VF, the flag register (R12, R23). -/
abbrev VF : Reg := 15

/-! ### Reads -/

/-- `V[r]` (R22). -/
def State.reg (s : State) (r : Reg) : Byte := s.v[r.val]

/-- The byte of memory at an address (R50, R61). -/
def State.readByte (s : State) (a : Nat) : Byte := Memory.read s.mem a

/-- `FB[r][c]` (R12, R29). -/
def State.pixel (s : State) (r : Fin 32) (c : Fin 64) : Bool := s.fb[r.val].getLsbD c.val

/-- `STACK[j]` (R27). -/
def State.stackAt (s : State) (j : Fin 16) : Word := s.stack[j.val]

/-- `KEY[k]` (R32). -/
def State.key (s : State) (k : Nat) : Bool := s.keys.getLsbD k

/-! ### Writes: one operation per part of the state -/

/-- `V[r] <- b` (R22). -/
def State.setReg (s : State) (r : Reg) (b : Byte) : State := { s with v := s.v.set r.val b r.isLt }

/-- All of `V` at once (R175). -/
def State.setRegs (s : State) (v : Vector Byte 16) : State := { s with v := v }

/-- `I <- w` (R25). -/
def State.setI (s : State) (w : Word) : State := { s with i := w }

/-- `PC <- w` (R26). -/
def State.setPc (s : State) (w : Word) : State := { s with pc := w }

/-- Memory after a write (R61). -/
def State.setMem (s : State) (m : Memory) : State := { s with mem := m }

/-- `STACK` and `SP` together (R27). -/
def State.setStack (s : State) (stack : Vector Word 16) (sp : Fin 17) : State := { s with stack := stack, sp := sp }

/-- `DT <- b` (R28). -/
def State.setDt (s : State) (b : Byte) : State := { s with dt := b }

/-- `ST <- b` (R28). -/
def State.setSt (s : State) (b : Byte) : State := { s with st := b }

/-- The framebuffer after a clear or a draw (R29). -/
def State.setFb (s : State) (fb : Framebuffer) : State := { s with fb := fb }

/-- `MODE <- m` (R30). -/
def State.setMode (s : State) (m : Mode) : State := { s with mode := m }

/-- The keypad input, which the input collaborator writes (R32). -/
def State.setKeys (s : State) (k : Keypad) : State := { s with keys := k }

/-- One draw of `rand8` was made (R118). -/
def State.countDraw (s : State) : State := { s with draws := s.draws + 1 }

/-! ### The program counter -/

/-- `nxt`, the address of the word after the instruction at `PC` (R17, R70). -/
def State.nxt (s : State) : Word := s.pc + 2#16

/-- `PC <- nxt`: what every instruction does unless it sets `PC` itself (R70). -/
def State.advance (s : State) : State := s.setPc s.nxt

/-- `if c then PC <- nxt + 2`: a skip passes over one word (R148). -/
def State.skipIf (s : State) (c : Bool) : State := s.setPc (if c then s.nxt + 2#16 else s.nxt)

/-! ### Results and flags -/

/-- VF receives a flag (R23). -/
def State.setFlag (s : State) (f : Bool) : State := s.setReg VF (flagByte f)

/-- The result to V[x] and THEN the flag to VF, so that VF ends with the flag when x = 15 (R112, R242). -/
def State.setResultThenFlag (s : State) (x : Reg) (r : Byte) (f : Bool) : State := (s.setReg x r).setFlag f

/-- The result of `OR`, `AND` or `XOR` to V[x], and then VF <- 0 under `QUIRK_LOGIC_RESETS_VF` (R103 to R105). -/
def State.setLogicResult (s : State) (x : Reg) (r : Byte) : State :=
  if s.quirks.logicResetsVf then s.setResultThenFlag x r false else s.setReg x r

/-! ### Taking a fault, and the way back -/

/-- `raise F(info)` (R203, R204): the step ends with every part of the state as it was when the step began, except
`MODE <- Faulted(F(info))`. Every instruction's checks come before its first write, and `s` is the state the step began in: its
`PC` is the address of the faulting instruction. -/
def takeFault (f : FaultRecord) (s : State) : Host.Outcome State Fault Refusal := .next (s.setMode (.faulted f))

/-- A step in mode `Faulted` changes nothing. There is no return from a fault: only reset leaves the mode (R205). -/
def stepFaulted (s : State) : Host.Outcome State Fault Refusal := .next s

/-- Run an instruction's effect if none of the `n` addresses from `base` on fails its check, and otherwise take
`OutOfBoundsAccess` with the lowest that does: all checks before the first write (R15, R202, R204). -/
def whenInBounds (bad : Nat → Bool) (base n : Nat) (s : State) (effect : State) : Host.Outcome State Fault Refusal :=
  match firstBad bad base n with
  | some a => takeFault (.outOfBoundsAccess s.pc a) s
  | none => .next effect

/-! ### Fetch and decode -/

/-- The first two sub-steps of a step in mode `Running` (R70): fetch at `PC`, then decode; the fetch's check comes first (R206). -/
def fetchDecode (s : State) : Except FaultRecord Instr :=
  match Memory.fetchWord s.mem s.pc.toNat with
  | .error a => .error (.outOfBoundsAccess s.pc a)
  | .ok w =>
    match decodeWord w with
    | .ok i => .ok i
    | .error _ => .error (.unknownInstruction s.pc w)

end Sys2Proof.Machine
end

