-- ==== Sys2Proof/Machine/ArithLogic.lean ====
section
/-! DEFINITION. Register loads, arithmetic, logic, shifts and random (41_arith_logic.md). Each meaning starts in the state whose
`PC` is the instruction's own address `a`; none of them can fault. -/

namespace Sys2Proof.Machine

/-- `LD Vx, byte` (R100): `V[x] <- kk`. -/
def execLdByte (x : Reg) (kk : Byte) (s : State) : Host.Outcome State Fault Refusal :=
  .next (s.advance.setReg x kk)

/-- `ADD Vx, byte` (R101): the sum modulo 256, and no flag. -/
def execAddByte (x : Reg) (kk : Byte) (s : State) : Host.Outcome State Fault Refusal :=
  .next (s.advance.setReg x (sum8 (s.reg x) kk))

/-- `LD Vx, Vy` (R102): `V[x] <- V[y]`. -/
def execLdReg (x y : Reg) (s : State) : Host.Outcome State Fault Refusal :=
  .next (s.advance.setReg x (s.reg y))

/-- `OR Vx, Vy` (R103). -/
def execOrReg (x y : Reg) (s : State) : Host.Outcome State Fault Refusal :=
  .next (s.advance.setLogicResult x (s.reg x ||| s.reg y))

/-- `AND Vx, Vy` (R104). -/
def execAndReg (x y : Reg) (s : State) : Host.Outcome State Fault Refusal :=
  .next (s.advance.setLogicResult x (s.reg x &&& s.reg y))

/-- `XOR Vx, Vy` (R105). -/
def execXorReg (x y : Reg) (s : State) : Host.Outcome State Fault Refusal :=
  .next (s.advance.setLogicResult x (s.reg x ^^^ s.reg y))

/-- `ADD Vx, Vy` (R106): the sum modulo 256, and the carry to VF, last. -/
def execAddReg (x y : Reg) (s : State) : Host.Outcome State Fault Refusal :=
  .next (s.advance.setResultThenFlag x (sum8 (s.reg x) (s.reg y)) (addCarry (s.reg x) (s.reg y)))

/-- `SUB Vx, Vy` (R107): Vx - Vy modulo 256, and no-borrow to VF, last. -/
def execSubReg (x y : Reg) (s : State) : Host.Outcome State Fault Refusal :=
  .next (s.advance.setResultThenFlag x (diff8 (s.reg x) (s.reg y)) (noBorrow (s.reg x) (s.reg y)))

/-- `SUBN Vx, Vy` (R109): Vy - Vx modulo 256, and no-borrow to VF, last. -/
def execSubn (x y : Reg) (s : State) : Host.Outcome State Fault Refusal :=
  .next (s.advance.setResultThenFlag x (diff8 (s.reg y) (s.reg x)) (noBorrow (s.reg y) (s.reg x)))

/-- `SHR Vx, Vy` (R108): the source shifted right by one, and the bit shifted out to VF, last. -/
def execShr (x y : Reg) (s : State) : Host.Outcome State Fault Refusal :=
  let src := shiftSource s.quirks (s.reg x) (s.reg y)
  .next (s.advance.setResultThenFlag x (src >>> 1) (shiftedOutRight src))

/-- `SHL Vx, Vy` (R110): the source shifted left by one in 8 bits, and the bit shifted out to VF, last. -/
def execShl (x y : Reg) (s : State) : Host.Outcome State Fault Refusal :=
  let src := shiftSource s.quirks (s.reg x) (s.reg y)
  .next (s.advance.setResultThenFlag x (src <<< 1) (shiftedOutLeft src))

/-- `RND` with the draw `r` (R118): `V[x] <- r & kk`, and the draw is used up. -/
def randomMasked (r : Byte) (x : Reg) (kk : Byte) (s : State) : State :=
  s.advance.countDraw.setReg x (r &&& kk)

/-- `RND Vx, byte` (R118): the draw is a free value, a fresh one at every execution. -/
def execRnd (x : Reg) (kk : Byte) (s : State) : Host.Outcome State Fault Refusal :=
  .next (randomMasked (Config.rand8 s.draws) x kk s)

end Sys2Proof.Machine
end

