-- ==== Sys2Proof/Machine/Control.lean ====
section
/-! DEFINITION. Jumps, calls, returns and skips (43_control.md). A target is never checked: a bad one faults at the next fetch
(R149). -/

namespace Sys2Proof.Machine

/-- `JP addr` (R140): the stack is not touched (90_conflicts.md C2). -/
def execJp (nnn : Word) (s : State) : Host.Outcome State Fault Refusal := .next (s.setPc nnn)

/-- `CALL addr` (R141): `StackOverflow` when 16 return addresses are held; else push `nxt` and jump. -/
def execCall (nnn : Word) (s : State) : Host.Outcome State Fault Refusal :=
  if h : s.sp.val < 16 then
    .next ((s.setStack (s.stack.set s.sp.val s.nxt h) ⟨s.sp.val + 1, by omega⟩).setPc nnn)
  else takeFault (.stackOverflow s.pc) s

/-- `RET` (R142): `StackUnderflow` with an empty stack; else pop into `PC`. The popped entry keeps its value in `STACK`. -/
def execRet (s : State) : Host.Outcome State Fault Refusal :=
  if h : 0 < s.sp.val then
    .next ((s.setStack s.stack ⟨s.sp.val - 1, by omega⟩).setPc (s.stack[s.sp.val - 1]'(by omega)))
  else takeFault (.stackUnderflow s.pc) s

/-- `JP V0, addr` (R143): the target is not reduced modulo 4096. -/
def execJpV0 (nnn : Word) (s : State) : Host.Outcome State Fault Refusal :=
  .next (s.setPc (nnn + (s.reg (jumpOffsetReg s.quirks nnn)).setWidth 16))

/-- `SE Vx, byte` (R144). -/
def execSeByte (x : Reg) (kk : Byte) (s : State) : Host.Outcome State Fault Refusal :=
  .next (s.skipIf (s.reg x == kk))

/-- `SNE Vx, byte` (R145). -/
def execSneByte (x : Reg) (kk : Byte) (s : State) : Host.Outcome State Fault Refusal :=
  .next (s.skipIf (s.reg x != kk))

/-- `SE Vx, Vy` (R146). -/
def execSeReg (x y : Reg) (s : State) : Host.Outcome State Fault Refusal :=
  .next (s.skipIf (s.reg x == s.reg y))

/-- `SNE Vx, Vy` (R147). -/
def execSneReg (x y : Reg) (s : State) : Host.Outcome State Fault Refusal :=
  .next (s.skipIf (s.reg x != s.reg y))

end Sys2Proof.Machine
end

