-- ==== Sys2Proof/Machine/Display.lean ====
section
/-! DEFINITION. Clear screen, and the sprite draw and collision detector (42_display.md). The draw is written as the loop of R131:
pixel by pixel, row by row, with the collision flag carried along. -/

namespace Sys2Proof.Machine

/-- `CLS` (R130): every pixel to 0. -/
def execCls (s : State) : Host.Outcome State Fault Refusal :=
  .next (s.advance.setFb (Vector.replicate 32 0#64))

/-- A draw under way: the framebuffer so far and `col`, whether a lit pixel was erased so far (R131). -/
structure Drawing where
  fb : Framebuffer
  collision : Bool
  deriving DecidableEq, Repr

/-- Where a sprite's pixel lands: itself, or wrapped under `QUIRK_DRAW_WRAP` (R132). -/
def placePixel (wrap : Bool) (px py : Nat) : Nat × Nat :=
  if wrap then (px % Config.fbWidth, py % Config.fbHeight) else (px, py)

/-- XOR of one pixel with 1, and collision if it was lit; a pixel off the screen is clipped: no change and no collision (R131 to
R133). -/
def togglePixel (px py : Nat) (d : Drawing) : Drawing :=
  if h : px < 64 ∧ py < 32 then
    { fb := d.fb.set py (d.fb[py] ^^^ BitVec.twoPow 64 px) h.2
      collision := d.collision || d.fb[py].getLsbD px }
  else d

/-- `DrawPixel(px, py)` of R131. -/
def drawPixel (wrap : Bool) (px py : Nat) (d : Drawing) : Drawing :=
  togglePixel (placePixel wrap px py).1 (placePixel wrap px py).2 d

/-- One sprite byte at row `py`: bit 7 - c draws the pixel in column `x0 + c` (R131). -/
def drawRow (wrap : Bool) (x0 py : Nat) (b : Byte) (d : Drawing) : Drawing :=
  (List.range 8).foldl (fun d c => if b.getLsbD (7 - c) then drawPixel wrap (x0 + c) py d else d) d

/-- The sprite's bytes, one a row, downwards from row `py` (R131). -/
def drawRows (wrap : Bool) (x0 : Nat) : Nat → List Byte → Drawing → Drawing
  | _, [], d => d
  | py, b :: bs, d => drawRows wrap x0 (py + 1) bs (drawRow wrap x0 py b d)

/-- The drawing that `DRW Vx, Vy, n` makes: the `n` bytes at `I` from the start point (V[x] mod 64, V[y] mod 32) (R131, R132). -/
def State.drawSprite (s : State) (x y : Reg) (n : Nat) : Drawing :=
  drawRows s.quirks.drawWrap ((s.reg x).toNat % Config.fbWidth) ((s.reg y).toNat % Config.fbHeight)
    (Memory.readBytes s.mem s.i.toNat n) ⟨s.fb, false⟩

/-- `DRW Vx, Vy, n` (R131, R134): all `n` sprite addresses are checked before anything changes; the coordinates are read before VF
receives the collision flag, which is written last (R136). -/
def execDrw (x y : Reg) (n : Fin 16) (s : State) : Host.Outcome State Fault Refusal :=
  whenInBounds badRead s.i.toNat n.val s
    ((s.advance.setFb (s.drawSprite x y n.val).fb).setFlag (s.drawSprite x y n.val).collision)

end Sys2Proof.Machine
end

