-- ==== Sys2Proof/Machine/IndexMemory.lean ====
section
/-! DEFINITION. The index register, font, BCD, and register loads and stores (45_index_memory.md). -/

namespace Sys2Proof.Machine

/-- `LD I, addr` (R170). -/
def execLdI (nnn : Word) (s : State) : Host.Outcome State Fault Refusal := .next (s.advance.setI nnn)

/-- `ADD I, Vx` (R171): the sum in 16 bits; under `QUIRK_ADDI_FLAG`, VF <- 1 when it exceeds 0xFFF, from the old I, last. -/
def execAddI (x : Reg) (s : State) : Host.Outcome State Fault Refusal :=
  let t := s.advance.setI (sumI s.i (s.reg x))
  .next (if s.quirks.addIFlag then t.setFlag (addIOverflow s.i (s.reg x)) else t)

/-- `LD F, Vx` (R172): `I` at the glyph of Vx's low nibble. -/
def execLdF (x : Reg) (s : State) : Host.Outcome State Fault Refusal :=
  .next (s.advance.setI (glyphAddress (lowNibble (s.reg x))))

/-- `I` after a register load or store up to Vx: `I + x + 1` under `QUIRK_LOADSTORE_INCREMENTS_I` (R174, R175). -/
def State.nextI (s : State) (x : Reg) : Word :=
  if s.quirks.loadStoreIncrementsI then BitVec.ofNat 16 (s.i.toNat + x.val + 1) else s.i

/-- `V[0]` to `V[x]`, the bytes that `LD [I], Vx` stores (R174). -/
def State.regsUpTo (s : State) (x : Reg) : List Byte := s.v.toList.take (x.val + 1)

/-- The registers after `LD Vx, [I]`: `V[i]` is the byte at `I + i` for i up to x (R175). -/
def State.regsFromMemory (s : State) (x : Reg) : Vector Byte 16 :=
  Vector.ofFn fun r => if r.val ≤ x.val then s.readByte (s.i.toNat + r.val) else s.reg r

/-- `LD B, Vx` (R173): the three decimal digits at I, I + 1, I + 2, all three addresses checked first. -/
def execLdB (x : Reg) (s : State) : Host.Outcome State Fault Refusal :=
  whenInBounds (badWrite s.quirks) s.i.toNat 3 s
    (s.advance.setMem (Memory.writeBytes s.mem s.i.toNat (decimalDigits (s.reg x))))

/-- `LD [I], Vx` (R174): V0 to Vx to memory at I, all addresses checked first, then the increment of I. -/
def execStoreRegs (x : Reg) (s : State) : Host.Outcome State Fault Refusal :=
  whenInBounds (badWrite s.quirks) s.i.toNat (x.val + 1) s
    ((s.advance.setMem (Memory.writeBytes s.mem s.i.toNat (s.regsUpTo x))).setI (s.nextI x))

/-- `LD Vx, [I]` (R175): memory at I to V0 to Vx, all addresses checked first, then the increment of I. -/
def execLoadRegs (x : Reg) (s : State) : Host.Outcome State Fault Refusal :=
  whenInBounds badRead s.i.toNat (x.val + 1) s
    ((s.advance.setRegs (s.regsFromMemory x)).setI (s.nextI x))

end Sys2Proof.Machine
end

