-- ==== Sys2Proof/Machine/Keypad.lean ====
section
/-! DEFINITION. Key tests and the key-wait (44_keypad.md). -/

namespace Sys2Proof.Machine

/-- `SKP Vx` (R160): skip if the key that the low nibble of Vx names is pressed. -/
def execSkp (x : Reg) (s : State) : Host.Outcome State Fault Refusal :=
  .next (s.skipIf (s.key (lowNibble (s.reg x))))

/-- `SKNP Vx` (R161): skip if that key is not pressed. -/
def execSknp (x : Reg) (s : State) : Host.Outcome State Fault Refusal :=
  .next (s.skipIf (!s.key (lowNibble (s.reg x))))

/-- `LD Vx, K` in mode `Running` (R162): the wait begins. `PC` stays at the instruction and V[x] is not written; the keys down
now are recorded as seen. -/
def execLdVxK (x : Reg) (s : State) : Host.Outcome State Fault Refusal := .next (s.setMode (.blocked x s.keys))

/-- `KeyWaitPoll(x, prev)` (R164): the whole of a step in mode `Blocked`. With no newly pressed key the keypad just seen becomes
`prev`; else the lowest one's code goes to V[x] and the wait ends. -/
def keyWaitPoll (x : Reg) (prev : Keypad) (s : State) : State :=
  match lowestNewKey s.keys prev with
  | none => s.setMode (.blocked x s.keys)
  | some k => (s.advance.setReg x (BitVec.ofNat 8 k)).setMode .running

end Sys2Proof.Machine
end

