-- ==== Sys2Proof/Machine/Timers.lean ====
section
/-! DEFINITION. The timer instructions (46_timers.md). None of them counts a timer down; the tick does (Machine/Commands.lean). -/

namespace Sys2Proof.Machine

/-- `LD Vx, DT` (R180). -/
def execLdVxDt (x : Reg) (s : State) : Host.Outcome State Fault Refusal := .next (s.advance.setReg x s.dt)

/-- `LD DT, Vx` (R181). -/
def execLdDtVx (x : Reg) (s : State) : Host.Outcome State Fault Refusal := .next (s.advance.setDt (s.reg x))

/-- `LD ST, Vx` (R182). -/
def execLdStVx (x : Reg) (s : State) : Host.Outcome State Fault Refusal := .next (s.advance.setSt (s.reg x))

end Sys2Proof.Machine
end

