-- ==== Sys2Proof/Machine/Step.lean ====
section
/-! DEFINITION. The step (30_encoding.md rule R70), and the state in which the next step runs a given word. -/

namespace Sys2Proof.Machine

/-- One `STEP` command (R70, R214). -/
def step (s : State) : Host.Outcome State Fault Refusal :=
  match s.mode with
  | .faulted _ => stepFaulted s
  | .blocked x prev => .next (keyWaitPoll x prev s)
  | .running =>
    match fetchDecode s with
    | .error f => takeFault f s
    | .ok i => exec i s

/-- The word `w` of `nbits` bits placed where the next step fetches (R52, R53): mode `Running`, the word's two bytes at `PC` and
`PC + 1`; `PC` itself changes only where no word can be fetched (R53), and is then 0x200. Placing a program is a load, not an
instruction, so the protection of R58 does not apply (R218, R234). DESIGN CHOICE, safe (notes/assumptions/5.md). -/
def State.withFetchWord (s : State) (nbits w : Nat) : State :=
  let word : Word := BitVec.ofNat 16 (w % 2 ^ nbits)
  let a := if s.pc.toNat ≤ 0xFFE then s.pc else BitVec.ofNat 16 Config.programBase
  { s with
    mem := Memory.writeBytes s.mem a.toNat [highByte word, lowByte word]
    pc := a
    mode := .running }

end Sys2Proof.Machine
end

