-- ==== Sys2Proof/Machine/Commands.lean ====
section
/-! DEFINITION. The block's other entry points and its outputs (60_exceptions.md, 70_reset_and_hazards.md): the tick of the timer
countdown controller (R211), reset and ROM load (R218, R230), the keypad input (R214), the four commands as one type, the host's
slice (R217), and what the block shows outside (R36, R215). -/

namespace Sys2Proof.Machine

/-! ### The timer countdown controller -/

/-- A timer after one tick: one less, and 0 stays 0 (R211). -/
def countDown (t : Byte) : Byte := if t = 0#8 then 0#8 else t - 1#8

/-- `TICK` (R211): both timers count down, in `Running` and in `Blocked` mode; in `Faulted` mode nothing changes. -/
def State.tick (s : State) : State :=
  match s.mode with
  | .faulted _ => s
  | .running => (s.setDt (countDown s.dt)).setSt (countDown s.st)
  | .blocked _ _ => (s.setDt (countDown s.dt)).setSt (countDown s.st)

/-! ### Reset and load -/

/-- The error of a load (R201). Of its cases only the oversized ROM is inside the block. -/
inductive RomLoadError where
  /-- The ROM is longer than 3584 bytes (R201, R218). -/
  | romTooLarge
  deriving DecidableEq, Repr

/-- `LOAD(rom)` (R218): the ROM's bytes at 0x200 and on, unless it is too large. The protection of R58 does not apply (R234). -/
def State.load (s : State) (rom : List Byte) : Except RomLoadError State :=
  if rom.length > Config.maxRom then .error .romTooLarge
  else .ok (s.setMem (Memory.writeBytes s.mem Config.programBase rom))

/-- `RESET(rom)` (R230): the size check first; then every part of `S` at its reset value (the font among them), and the ROM. The
keypad is not reset by the block (R231), the configuration is no part of `S` (R20), and the count of draws goes on, so that no
draw repeats (R118). -/
def State.resetWith (s : State) (rom : List Byte) : Except RomLoadError State :=
  State.load { State.reset with keys := s.keys, draws := s.draws, quirks := s.quirks } rom

/-! ### The command interface -/

/-- The four commands (R214), each atomic. -/
inductive Command where
  | step
  | tick
  | reset (rom : List Byte)
  | keys (k : Keypad)
  deriving DecidableEq, Repr

/-- What a command answers: the state after it, and the error of a load that failed (R201), which changed nothing (R218). -/
structure Answer where
  state : State
  error : Option RomLoadError
  deriving DecidableEq, Repr

/-- One command (R214). -/
def command (c : Command) (s : State) : Host.Outcome Answer Fault Refusal :=
  match c with
  | .step =>
    match step s with
    | .next t => .next ⟨t, none⟩
    | .fault r => .fault r
    | .refused r => .refused r
  | .tick => .next ⟨s.tick, none⟩
  | .reset rom =>
    match s.resetWith rom with
    | .ok t => .next ⟨t, none⟩
    | .error e => .next ⟨s, some e⟩
  | .keys k => .next ⟨s.setKeys k, none⟩

/-- Commands one after another (R214): the state after all of them. DESIGN CHOICE, unsafe (notes/assumptions/19.md): after a
`RESET` that failed the sequence goes on from the state it left unchanged (R218), and the answer's error is not kept. -/
def runCommands : List Command → State → Host.Outcome State Fault Refusal
  | [], s => .next s
  | c :: cs, s =>
    match command c s with
    | .next a => runCommands cs a.state
    | .fault r => .fault r
    | .refused r => .refused r

/-- The commands of one slice (R217): the pending keypad update, if any, then `STEPS_PER_SLICE` steps, then one tick. The number
of steps is open (92_eei_decisions.md D24), so it is an argument. -/
def sliceCommands (update : Option Keypad) (stepsPerSlice : Nat) : List Command :=
  (match update with
    | some k => [Command.keys k]
    | none => []) ++ List.replicate stepsPerSlice Command.step ++ [Command.tick]

/-! ### Outputs -/

/-- `sound_active` (R36): ST is not 0. -/
def State.soundActive (s : State) : Bool := s.st != 0#8

/-- The read-only copy of the framebuffer (R36, R138). -/
def State.framebufferCopy (s : State) : Framebuffer := s.fb

/-- The fault record, when `MODE = Faulted(f)` (R36, R202). -/
def State.faultRecord (s : State) : Option FaultRecord :=
  match s.mode with
  | .faulted f => some f
  | .running => none
  | .blocked _ _ => none

end Sys2Proof.Machine
end

