-- ==== Sys2Proof/Safety.lean ====
section
/-! DEFINITION. The terms in which claims are stated: what a safe run is, the two observation points of a run (R246), what an
instruction leaves unchanged, which pixels a sprite covers, and the machine's invariant. -/

namespace Sys2Proof.Machine

/-! ### Safe runs and observation points -/

/-- No fault was raised (R200). -/
def State.Safe (s : State) : Prop := ∀ f, s.mode ≠ .faulted f

/-- The word at an address, big-endian (R52). -/
def State.wordAt (s : State) (a : Nat) : Word := wordOfBytes (s.readByte a) (s.readByte (a + 1))

/-- `t` is the state after `k` `STEP` commands from `s` (R246). -/
def State.ObservedAfter (s : State) (k : Nat) (t : State) : Prop :=
  (Host.Core.run core k s : Host.Outcome State Fault Refusal) = .next t

/-- A run of `k` steps from `s` meets no fault. -/
def State.SafeFor (s : State) (k : Nat) : Prop := ∀ j, j ≤ k → ∃ t : State, s.ObservedAfter j t ∧ t.Safe

/-- The run is idle at the address `p`: mode `Running`, and the word at `PC = p` is a jump to `p` itself (R246). -/
def State.IdleAt (s : State) (p : Nat) : Prop :=
  s.mode = .running ∧ s.pc.toNat = p ∧ p ≤ 0xFFE ∧ (s.wordAt p).toNat = 0x1000 + p

/-! ### What stays unchanged -/

/-- The parts of a state. -/
inductive Part where
  | mem | v | i | pc | stack | sp | dt | st | fb | mode | keys | draws | quirks
  deriving DecidableEq, Repr

/-- Every part of the state but the listed ones is the same in `t` as in `s`; registers, stack entries, pixels and memory are
compared by their reads, memory at every address. -/
def UnchangedBut (ps : List Part) (s t : State) : Prop :=
  (Part.mem ∉ ps → ∀ a, t.readByte a = s.readByte a) ∧
  (Part.v ∉ ps → ∀ r, t.reg r = s.reg r) ∧
  (Part.i ∉ ps → t.i = s.i) ∧
  (Part.pc ∉ ps → t.pc = s.pc) ∧
  (Part.stack ∉ ps → ∀ j, t.stackAt j = s.stackAt j) ∧
  (Part.sp ∉ ps → t.sp = s.sp) ∧
  (Part.dt ∉ ps → t.dt = s.dt) ∧
  (Part.st ∉ ps → t.st = s.st) ∧
  (Part.fb ∉ ps → ∀ r c, t.pixel r c = s.pixel r c) ∧
  (Part.mode ∉ ps → t.mode = s.mode) ∧
  (Part.keys ∉ ps → t.keys = s.keys) ∧
  (Part.draws ∉ ps → t.draws = s.draws) ∧
  (Part.quirks ∉ ps → t.quirks = s.quirks)

/-- Every general register but the listed ones is the same. -/
def RegsUnchangedBut (ds : List Reg) (s t : State) : Prop := ∀ r, r ∉ ds → t.reg r = s.reg r

/-- Every byte of memory outside the `n` bytes from `base` on is the same. -/
def MemUnchangedOutside (base n : Nat) (s t : State) : Prop :=
  ∀ a, (a < base ∨ base + n ≤ a) → t.readByte a = s.readByte a

/-! ### Which accesses pass their check -/

/-- A read of the address passes its check (R51, R59). -/
abbrev ReadOk (a : Nat) : Prop := a ≤ 0xFFF

/-- A write of the address by an instruction passes its check (R51, R58, R59). -/
abbrev WriteOk (q : Quirks) (a : Nat) : Prop := a ≤ 0xFFF ∧ (q.protectLowMemory = true → 0x200 ≤ a)

/-! ### Sprites -/

/-- The sprite bit in row `r` and column `c` lands on the pixel (`row`, `col`): clipped, or wrapped under `QUIRK_DRAW_WRAP` (R131,
R132). -/
def State.SpriteBitLands (s : State) (x y : Reg) (r : Fin 16) (c : Fin 8) (row : Fin 32) (col : Fin 64) : Prop :=
  if s.quirks.drawWrap then
    ((s.reg x).toNat % 64 + c.val) % 64 = col.val ∧ ((s.reg y).toNat % 32 + r.val) % 32 = row.val
  else (s.reg x).toNat % 64 + c.val = col.val ∧ (s.reg y).toNat % 32 + r.val = row.val

/-- Some lit bit of the `n`-row sprite at `I` lands on the pixel (R131: bit 7 is the leftmost column). -/
def State.SpriteCovers (s : State) (x y : Reg) (n : Fin 16) (row : Fin 32) (col : Fin 64) : Prop :=
  ∃ (r : Fin 16) (c : Fin 8), r < n ∧ (s.readByte (s.i.toNat + r.val)).getLsbD (7 - c.val) = true ∧
    s.SpriteBitLands x y r c row col

/-! ### Which instruction a state is about to run -/

/-- The next step fetches the instruction `i` (R70): mode `Running`, and the word at `PC` is its encoding. -/
def State.AboutToRun (s : State) (i : Instr) : Prop :=
  s.mode = .running ∧ s.pc.toNat ≤ 0xFFE ∧ decodeWord (s.wordAt s.pc.toNat) = .ok i

/-- The general registers that an instruction may write (the table of R24). -/
def writesReg (q : Quirks) : Instr → Reg → Prop
  | .ldByte x _, r => r = x
  | .addByte x _, r => r = x
  | .ldReg x _, r => r = x
  | .orReg x _, r => r = x ∨ (q.logicResetsVf = true ∧ r = VF)
  | .andReg x _, r => r = x ∨ (q.logicResetsVf = true ∧ r = VF)
  | .xorReg x _, r => r = x ∨ (q.logicResetsVf = true ∧ r = VF)
  | .addReg x _, r => r = x ∨ r = VF
  | .subReg x _, r => r = x ∨ r = VF
  | .subn x _, r => r = x ∨ r = VF
  | .shr x _, r => r = x ∨ r = VF
  | .shl x _, r => r = x ∨ r = VF
  | .rnd x _, r => r = x
  | .drw _ _ _, r => r = VF
  | .ldVxDt x, r => r = x
  | .addI _, r => q.addIFlag = true ∧ r = VF
  | .loadRegs x, r => r ≤ x
  | .cls, _ => False
  | .ret, _ => False
  | .jp _, _ => False
  | .call _, _ => False
  | .seByte _ _, _ => False
  | .sneByte _ _, _ => False
  | .seReg _ _, _ => False
  | .sneReg _ _, _ => False
  | .ldI _, _ => False
  | .jpV0 _, _ => False
  | .skp _, _ => False
  | .sknp _, _ => False
  | .ldVxK _, _ => False
  | .ldDtVx _, _ => False
  | .ldStVx _, _ => False
  | .ldF _, _ => False
  | .ldB _, _ => False
  | .storeRegs _, _ => False

/-! ### The machine's invariant -/

/-- What a fault record says is true of the state, which the fault left as it was (R200, R202, R204). -/
def State.Explains (s : State) : FaultRecord → Prop
  | .unknownInstruction pc w => pc.toNat ≤ 0xFFE ∧ s.wordAt pc.toNat = w ∧ ∀ r ∈ opcodeTable, r.matches w = false
  | .stackOverflow _ => s.sp.val = 16
  | .stackUnderflow _ => s.sp.val = 0
  | .outOfBoundsAccess _ a => a > 0xFFF ∨ (s.quirks.protectLowMemory = true ∧ a < 0x200)

/-- What holds of every state that a run from reset reaches. -/
structure State.Inv (s : State) : Prop where
  /-- Memory keeps its canonical form, within 0x000 to 0xFFF (R50). -/
  memWf : Memory.wf s.mem
  /-- `PC` is at most 0xFFF + 0xFF, the largest target of `JP V0` (R143), so `PC + 2` and `PC + 4` never wrap (R26). -/
  pcBound : s.pc.toNat ≤ 0x10FE
  /-- The return addresses in use are at most 0x1000, the address after a `CALL` at 0xFFE (R141). -/
  stackBound : ∀ j : Fin 16, j.val < s.sp.val → (s.stackAt j).toNat ≤ 0x1000
  /-- In mode `Blocked`, `PC` is the address of the key-wait, whose destination the mode holds (R26, R163). -/
  blockedAtKeyWait : ∀ x prev, s.mode = .blocked x prev →
    s.pc.toNat ≤ 0xFFE ∧ s.wordAt s.pc.toNat = encode (.ldVxK x)
  /-- In mode `Faulted`, `PC` is the address of the faulting instruction (R26, R202, R204), and the record tells the truth. -/
  faultedAtFault : ∀ f, s.mode = .faulted f → f.pc = s.pc ∧ s.Explains f

end Sys2Proof.Machine
end

