-- ==== Sys2Proof/Certificates/Slice0/Obligations.lean ====
section
/-! DEFINITION. The statements for the provers. A statement about an instruction concludes that exec answers a next state and says
what it holds: the destination, the flag, PC, and the frame (UnchangedBut, RegsUnchangedBut, MemUnchangedOutside of
Sys2Proof/Safety.lean). The state given to exec is the one the step began in: its PC is the instruction's own address. -/

open Sys2Proof Sys2Proof.Machine

/-! ### Encoding -/

/-- A few words written out from the patterns of R76, with the instruction each stands for. -/
def Obligations.SampleWordsDecodeAsTheTableSays : Prop :=
  decodeWord 0x00E0#16 = .ok .cls ∧ decodeWord 0x1234#16 = .ok (.jp 0x234#16) ∧
  decodeWord 0x8126#16 = .ok (.shr 1 2) ∧ decodeWord 0xD125#16 = .ok (.drw 1 2 5) ∧
  decodeWord 0xE49E#16 = .ok (.skp 4) ∧ decodeWord 0xF265#16 = .ok (.loadRegs 2) ∧
  decodeWord 0xF015#16 = .ok (.ldDtVx 0) ∧ decodeWord 0x5121#16 = .error (.unknownInstruction 0x5121#16)

/-- Decode and encode agree on every well-formed instruction, as a word and as bytes with more bytes after them (R71 to R74, R76). -/
def Obligations.DecodeOfEncodeIsTheInstruction : Prop :=
  ∀ (i : Instr) (rest : List Byte), i.wellFormed = true →
    decodeWord (encode i) = .ok i ∧ decodeBytes (encodeBytes i ++ rest) = .ok (i, rest)

/-- A word that decodes is the encoding of what it decodes to, and that is well formed: no bit of the word is dropped, and no
instruction has two words (R71, R76). -/
def Obligations.EncodeOfDecodeIsTheWord : Prop :=
  ∀ (w : Word) (i : Instr), decodeWord w = .ok i → encode i = w ∧ i.wellFormed = true

/-- The switch of R75 decodes exactly the words that match a row of the table of R76; that row is the only one the word matches, and
the instruction is the row's. -/
def Obligations.SwitchAgreesWithOpcodeTable : Prop :=
  ∀ w : Word,
    ((∃ i, decodeWord w = .ok i) ↔ ∃ r ∈ opcodeTable, r.matches w = true) ∧
    (∀ r ∈ opcodeTable, ∀ r' ∈ opcodeTable, r.matches w = true → r'.matches w = true → r = r') ∧
    (∀ i, decodeWord w = .ok i → ∀ r ∈ opcodeTable, r.matches w = true → r.mnemonic = i.mnemonic)

/-! ### The step -/

/-- In mode Running, a step whose word at PC decodes to i is exec of i at that state (R70); exec starts from PC = a, so the
meaning itself moves PC past the word. -/
def Obligations.StepRunsTheDecodedInstruction : Prop :=
  ∀ (s : State) (i : Instr), s.mode = .running → s.pc.toNat ≤ 0xFFE → decodeWord (s.wordAt s.pc.toNat) = .ok i →
    step s = exec i s

/-- A word placed by withFetchWord (the model's own operation, notes/assumptions/5.md) is the one the next step runs. -/
def Obligations.PlacedWordIsTheNextInstruction : Prop :=
  ∀ (s : State) (w : Word) (i : Instr), Memory.wf s.mem → decodeWord w = .ok i →
    step (s.withFetchWord 16 w.toNat) = exec i (s.withFetchWord 16 w.toNat)

/-- R53: which fetches are in bounds, and the fault of those that are not; nothing is decoded then. That nothing but the mode
changes is R204, the spec's own decision D18 (notes/assumptions/4.md), and that the record holds pc is R202, its D19. -/
def Obligations.FetchOutsideMemoryFaults : Prop :=
  ∀ s : State, s.mode = .running →
    (s.pc.toNat ≤ 0xFFE → Memory.fetchWord s.mem s.pc.toNat = .ok (s.wordAt s.pc.toNat)) ∧
    (0xFFE < s.pc.toNat →
      step s = .next { s with mode := .faulted (.outOfBoundsAccess s.pc (if s.pc.toNat > 0xFFF then s.pc.toNat else 0x1000)) })

/-- R84: a word that matches no row of the table is unknown, and executing it faults with its address and the word; nothing but
the mode changes. -/
def Obligations.UnknownWordFaultsWithAddressAndWord : Prop :=
  ∀ (s : State) (w : Word), (∀ r ∈ opcodeTable, r.matches w = false) →
    decodeWord w = .error (.unknownInstruction w) ∧
    (s.mode = .running → s.pc.toNat ≤ 0xFFE → s.wordAt s.pc.toNat = w →
      step s = .next { s with mode := .faulted (.unknownInstruction s.pc w) })

/-- R204: a step that ends in mode Faulted leaves every other part of the state, PC among them, as it was; and a step that raised
the fault records the address it fetched from. That the state stays untouched is the spec's own decision D18, and that every record
holds pc is D19 (92_eei_decisions.md). -/
def Obligations.FaultsArePrecise : Prop :=
  ∀ (s t : State) (f : FaultRecord), step s = .next t → t.mode = .faulted f →
    t = { s with mode := .faulted f } ∧ ((∀ g, s.mode ≠ .faulted g) → f.pc = s.pc)

/-- R205: in mode Faulted, any number of steps and a tick change nothing, and of the commands only a reset leaves the mode.
That steps and ticks change nothing then is the spec's own decision D18. -/
def Obligations.FaultedIsTerminal : Prop :=
  ∀ (s : State) (f : FaultRecord), s.mode = .faulted f →
    (∀ k, s.ObservedAfter k s) ∧ s.tick = s ∧
    (∀ (c : Command) (a : Answer), command c s = .next a → a.state.mode ≠ .faulted f → ∃ rom, c = .reset rom)

/-- R206 and R207: after decode only six instructions can fault, each with one kind of fault and for one cause: the
inference that these rules mark as derived. -/
def Obligations.OnlySixInstructionsFaultEachForOneCause : Prop :=
  ∀ (i : Instr) (s t : State) (f : FaultRecord), (∀ g, s.mode ≠ .faulted g) → exec i s = .next t → t.mode = .faulted f →
    ((∃ nnn, i = .call nnn) ∧ f = .stackOverflow s.pc ∧ s.sp.val = 16) ∨
    (i = .ret ∧ f = .stackUnderflow s.pc ∧ s.sp.val = 0) ∨
    (∃ a, f = .outOfBoundsAccess s.pc a ∧
      (((∃ x y n, i = .drw x y n) ∧ ¬ ReadOk a) ∨ ((∃ x, i = .loadRegs x) ∧ ¬ ReadOk a) ∨
       ((∃ x, i = .ldB x) ∧ ¬ WriteOk s.quirks a) ∨ ((∃ x, i = .storeRegs x) ∧ ¬ WriteOk s.quirks a)))

/-- Every step, of every instruction in every mode, answers a next state, and so does every command (R70, R204, R205, R214). That a
fault of the spec is a next state and does not stop the model is the model's inference (DEDUCED, notes/assumptions/4.md), and that a
RESET which fails answers the unchanged state with its error is the model's choice of form (DESIGN CHOICE, notes/assumptions/12.md). -/
def Obligations.EveryStepAnswersANextState : Prop :=
  ∀ s : State, (∃ t, step s = .next t) ∧ ∀ c : Command, ∃ a, command c s = .next a

/-- R167: Running to Blocked only by the key-wait instruction, Blocked to Running only on a newly pressed key, Faulted only from
Running; reset sets Running, and neither a tick nor a keypad update changes the mode (R211, R214). That prev is
the keypad as the wait begins (R162) and after a poll (R164) is the spec's own decision D16. -/
def Obligations.ModeTransitions : Prop :=
  (∀ (s t : State), step s = .next t →
    (s.mode = .running → ∀ x prev, t.mode = .blocked x prev → s.AboutToRun (.ldVxK x) ∧ prev = s.keys) ∧
    (∀ x prev, s.mode = .blocked x prev →
      (t.mode = .running ∧ ∃ k, k < 16 ∧ s.key k = true ∧ prev.getLsbD k = false) ∨
      (t.mode = .blocked x s.keys ∧ ∀ k, k < 16 → s.key k = true → prev.getLsbD k = true)) ∧
    (∀ f, t.mode = .faulted f → s.mode = .running ∨ s.mode = .faulted f)) ∧
  (∀ (s t : State) (rom : List Byte), s.resetWith rom = .ok t → t.mode = .running) ∧
  (∀ (s : State) (k : Keypad), s.tick.mode = s.mode ∧ (s.setKeys k).mode = s.mode)

/-! ### The invariant -/

/-- The invariant holds right after reset (R37, R230; the values outside `S` are the model's choice, notes/assumptions/2.md). -/
def Obligations.ResetMeetsTheInvariant : Prop := State.Inv State.reset

/-- Every step keeps the invariant: memory in canonical form within 0x000 to 0xFFF, PC and the return addresses in their bounds,
a blocked machine at its key-wait, a fault record that is true of the state (R26, R50, R163, R202, R204). -/
def Obligations.EveryStepKeepsTheInvariant : Prop :=
  ∀ s t : State, s.Inv → step s = .next t → t.Inv

/-- Every command keeps the invariant: STEP, TICK, RESET(rom) for every rom, KEYS (R214). -/
def Obligations.EveryCommandKeepsTheInvariant : Prop :=
  ∀ (s : State) (c : Command) (a : Answer), s.Inv → command c s = .next a → a.state.Inv

/-! ### Whole-machine rules: who writes what -/

/-- R183: a step leaves DT and ST as they are, except where LD DT, Vx or LD ST, Vx sets them. -/
def Obligations.TimersKeepTheirValuesAcrossSteps : Prop :=
  ∀ s t : State, step s = .next t →
    (t.dt = s.dt ∨ ∃ x, s.AboutToRun (.ldDtVx x) ∧ t.dt = s.reg x) ∧
    (t.st = s.st ∨ ∃ x, s.AboutToRun (.ldStVx x) ∧ t.st = s.reg x)

/-- Who writes I, STACK, SP, FB and MEM in a step (R25, R27, R29, R50), and that no step writes the keypad (R32) or the
configuration (R20). -/
def Obligations.EachPartHasOnlyItsNamedWriters : Prop :=
  ∀ s t : State, step s = .next t →
    (t.i ≠ s.i → ∃ i, s.AboutToRun i ∧
      ((∃ nnn, i = .ldI nnn) ∨ (∃ x, i = .addI x) ∨ (∃ x, i = .ldF x) ∨
       (s.quirks.loadStoreIncrementsI = true ∧ ((∃ x, i = .storeRegs x) ∨ ∃ x, i = .loadRegs x)))) ∧
    ((∃ j, t.stackAt j ≠ s.stackAt j) → ∃ nnn, s.AboutToRun (.call nnn)) ∧
    (t.sp ≠ s.sp → s.AboutToRun .ret ∨ ∃ nnn, s.AboutToRun (.call nnn)) ∧
    ((∃ r c, t.pixel r c ≠ s.pixel r c) → s.AboutToRun .cls ∨ ∃ x y n, s.AboutToRun (.drw x y n)) ∧
    ((∃ a, t.readByte a ≠ s.readByte a) → (∃ x, s.AboutToRun (.ldB x)) ∨ ∃ x, s.AboutToRun (.storeRegs x)) ∧
    t.keys = s.keys ∧ t.quirks = s.quirks

/-- The table of R24, which the spec marks as derived: no instruction writes a general register but those listed for it. -/
def Obligations.RegisterWritersFollowTheTable : Prop :=
  ∀ (i : Instr) (s t : State) (r : Reg), exec i s = .next t → t.reg r ≠ s.reg r → writesReg s.quirks i r

/-- R58, of every step of the machine: under PROTECT_LOW_MEMORY no step changes a byte below 0x200. The protection is the
spec's own decision D20. -/
def Obligations.ProtectedLowMemoryNeverChanges : Prop :=
  ∀ s t : State, s.quirks.protectLowMemory = true → step s = .next t → ∀ a, a < 0x200 → t.readByte a = s.readByte a

/-- R65 and R241: bytes that LD [I], Vx stored are what a fetch of them reads in the state after it (the spec's own decision
D22). -/
def Obligations.StoredBytesAreFetched : Prop :=
  ∀ (s t : State) (x : Reg) (j : Nat) (h : j + 1 ≤ x.val), Memory.wf s.mem →
    (∀ k, k ≤ x.val → WriteOk s.quirks (s.i.toNat + k)) → exec (.storeRegs x) s = .next t →
    Memory.fetchWord t.mem (s.i.toNat + j) =
      .ok (wordOfBytes (s.reg ⟨j, by omega⟩) (s.reg ⟨j + 1, by omega⟩))

/-! ### What a program cannot see -/

/-- No instruction reads ST (R28): two states that differ only in ST step to states that differ at most in ST. -/
def Obligations.SoundTimerIsInvisibleToPrograms : Prop :=
  ∀ (s t : State) (z : Byte), step s = .next t → ∃ z', step { s with st := z } = .next { t with st := z' }

/-- Entries of STACK at and above SP cannot be read (R27): two states that agree but for those step to states that agree but for
those. -/
def Obligations.StaleStackEntriesAreInvisible : Prop :=
  ∀ (s t : State) (k : Vector Word 16), (∀ j : Fin 16, j.val < s.sp.val → k[j.val] = s.stackAt j) → step s = .next t →
    ∃ k' : Vector Word 16, step { s with stack := k } = .next { t with stack := k' } ∧
      ∀ j : Fin 16, j.val < t.sp.val → k'[j.val] = t.stackAt j

/-! ### Register loads, arithmetic, logic, shifts and random (41_arith_logic.md) -/

/-- R100 and R102. -/
def Obligations.LoadImmediateAndCopy : Prop :=
  (∀ (x : Reg) (kk : Byte) (s : State), ∃ t, exec (.ldByte x kk) s = .next t ∧
    t.reg x = kk ∧ RegsUnchangedBut [x] s t ∧ t.pc = s.pc + 2#16 ∧ UnchangedBut [.v, .pc] s t) ∧
  (∀ (x y : Reg) (s : State), ∃ t, exec (.ldReg x y) s = .next t ∧
    t.reg x = s.reg y ∧ RegsUnchangedBut [x] s t ∧ t.pc = s.pc + 2#16 ∧ UnchangedBut [.v, .pc] s t)

/-- R101: the sum modulo 256, and no flag even when it exceeds 255. -/
def Obligations.AddImmediateWritesNoFlag : Prop :=
  ∀ (x : Reg) (kk : Byte) (s : State), ∃ t, exec (.addByte x kk) s = .next t ∧
    (t.reg x).toNat = ((s.reg x).toNat + kk.toNat) % 256 ∧ RegsUnchangedBut [x] s t ∧
    t.pc = s.pc + 2#16 ∧ UnchangedBut [.v, .pc] s t

/-- R103 to R105: the result bit by bit, and VF = 0 at the end under QUIRK_LOGIC_RESETS_VF, even where x = F. That these
instructions reset VF is the spec's own decision D8. -/
def Obligations.LogicOpsAndTheirVfReset : Prop :=
  ∀ (x y : Reg) (s : State) (i : Instr) (op : Bool → Bool → Bool),
    ((i = .orReg x y ∧ op = or) ∨ (i = .andReg x y ∧ op = and) ∨ (i = .xorReg x y ∧ op = xor)) →
    ∃ t, exec i s = .next t ∧
      (x ≠ VF ∨ s.quirks.logicResetsVf = false →
        ∀ b, b < 8 → (t.reg x).getLsbD b = op ((s.reg x).getLsbD b) ((s.reg y).getLsbD b)) ∧
      (s.quirks.logicResetsVf = true → t.reg VF = 0#8) ∧
      RegsUnchangedBut (if s.quirks.logicResetsVf then [x, VF] else [x]) s t ∧
      t.pc = s.pc + 2#16 ∧ UnchangedBut [.v, .pc] s t

/-- R106: the sum modulo 256 and the carry, written last: with x = F the carry is what VF holds. -/
def Obligations.AddRegistersSetsCarry : Prop :=
  ∀ (x y : Reg) (s : State), ∃ t, exec (.addReg x y) s = .next t ∧
    (x ≠ VF → (t.reg x).toNat = ((s.reg x).toNat + (s.reg y).toNat) % 256) ∧
    t.reg VF = (if (s.reg x).toNat + (s.reg y).toNat > 255 then 1#8 else 0#8) ∧
    RegsUnchangedBut [x, VF] s t ∧ t.pc = s.pc + 2#16 ∧ UnchangedBut [.v, .pc] s t

/-- R107 and R109: the difference modulo 256 and no-borrow, written last. -/
def Obligations.SubtractionsSetNoBorrow : Prop :=
  (∀ (x y : Reg) (s : State), ∃ t, exec (.subReg x y) s = .next t ∧
    (x ≠ VF → (t.reg x).toNat = ((s.reg x).toNat + 256 - (s.reg y).toNat) % 256) ∧
    t.reg VF = (if (s.reg x).toNat ≥ (s.reg y).toNat then 1#8 else 0#8) ∧
    RegsUnchangedBut [x, VF] s t ∧ t.pc = s.pc + 2#16 ∧ UnchangedBut [.v, .pc] s t) ∧
  (∀ (x y : Reg) (s : State), ∃ t, exec (.subn x y) s = .next t ∧
    (x ≠ VF → (t.reg x).toNat = ((s.reg y).toNat + 256 - (s.reg x).toNat) % 256) ∧
    t.reg VF = (if (s.reg y).toNat ≥ (s.reg x).toNat then 1#8 else 0#8) ∧
    RegsUnchangedBut [x, VF] s t ∧ t.pc = s.pc + 2#16 ∧ UnchangedBut [.v, .pc] s t)

/-- R108 and R110: the source (Vy, or Vx without QUIRK_SHIFT_USES_VY) shifted by one, and the bit shifted out, written last,
which the spec marks as derived for the shifts. -/
def Obligations.ShiftsSetTheBitShiftedOut : Prop :=
  ∀ (x y : Reg) (s : State) (src : Nat), src = (s.reg (if s.quirks.shiftUsesVy then y else x)).toNat →
    (∃ t, exec (.shr x y) s = .next t ∧
      (x ≠ VF → (t.reg x).toNat = src / 2) ∧ (t.reg VF).toNat = src % 2 ∧
      RegsUnchangedBut [x, VF] s t ∧ t.pc = s.pc + 2#16 ∧ UnchangedBut [.v, .pc] s t) ∧
    (∃ t, exec (.shl x y) s = .next t ∧
      (x ≠ VF → (t.reg x).toNat = src * 2 % 256) ∧ (t.reg VF).toNat = src / 128 ∧
      RegsUnchangedBut [x, VF] s t ∧ t.pc = s.pc + 2#16 ∧ UnchangedBut [.v, .pc] s t)

/-- R118, of whatever byte the draw is: the draw masked by kk, and the next draw is another one of the free sequence (the sequence
and its counter are the model's form, notes/assumptions/3.md). -/
def Obligations.RandomIsAFreshDrawMasked : Prop :=
  ∀ (x : Reg) (kk : Byte) (s : State), ∃ t, exec (.rnd x kk) s = .next t ∧
    (∀ b, b < 8 → (t.reg x).getLsbD b = ((Config.rand8 s.draws).getLsbD b && kk.getLsbD b)) ∧
    t.draws = s.draws + 1 ∧ RegsUnchangedBut [x] s t ∧ t.pc = s.pc + 2#16 ∧ UnchangedBut [.v, .pc, .draws] s t

/-! ### Clear and draw (42_display.md) -/

/-- R130. -/
def Obligations.ClearDarkensEveryPixel : Prop :=
  ∀ s : State, ∃ t, exec .cls s = .next t ∧ (∀ r c, t.pixel r c = false) ∧ t.pc = s.pc + 2#16 ∧ UnchangedBut [.fb, .pc] s t

/-- R131 and R134, the loop over the sprite's bits held against the picture it draws: each pixel is XORed with whether a lit sprite
bit lands on it (clipped, or wrapped under the quirk), VF is 1 exactly when such a pixel was lit, coordinates are read before VF is
written; and with a sprite byte outside memory nothing is drawn and the lowest such address, max(I, 0x1000), is reported.
The checks' order is the spec's own decision D14, that a clipped pixel does not count is its D31, and
that nothing but the mode changes on the fault is R204, its D18 (notes/assumptions/4.md). -/
def Obligations.DrawXorsTheSpriteAndReportsCollision : Prop :=
  ∀ (x y : Reg) (n : Fin 16) (s : State),
    ((∀ r, r < n.val → ReadOk (s.i.toNat + r)) → ∃ t, exec (.drw x y n) s = .next t ∧
      (∀ row col, (s.SpriteCovers x y n row col → t.pixel row col = !s.pixel row col) ∧
        (¬ s.SpriteCovers x y n row col → t.pixel row col = s.pixel row col)) ∧
      ((∃ row col, s.SpriteCovers x y n row col ∧ s.pixel row col = true) → t.reg VF = 1#8) ∧
      ((∀ row col, s.SpriteCovers x y n row col → s.pixel row col = false) → t.reg VF = 0#8) ∧
      RegsUnchangedBut [VF] s t ∧ t.pc = s.pc + 2#16 ∧ UnchangedBut [.v, .pc, .fb] s t) ∧
    ((∃ r, r < n.val ∧ ¬ ReadOk (s.i.toNat + r)) →
      exec (.drw x y n) s = .next { s with mode := .faulted (.outOfBoundsAccess s.pc (max s.i.toNat 0x1000)) })

/-- R135, the spec's own decision D13: height zero, for every I. -/
def Obligations.DrawOfHeightZero : Prop :=
  ∀ (x y : Reg) (s : State), ∃ t, exec (.drw x y 0) s = .next t ∧ t.reg VF = 0#8 ∧ RegsUnchangedBut [VF] s t ∧
    t.pc = s.pc + 2#16 ∧ UnchangedBut [.v, .pc] s t

/-- R137, which the spec marks as derived: the same sprite drawn twice at the same place. The second draw may name other
registers and run in any state that
agrees with the first draw's result in memory, I, FB and configuration, and holds the same coordinates. -/
def Obligations.DrawingTwiceRestoresTheFramebuffer : Prop :=
  ∀ (x y x' y' : Reg) (n : Fin 16) (s t t' u : State),
    (∀ r, r < n.val → ReadOk (s.i.toNat + r)) → exec (.drw x y n) s = .next t →
    (∀ a, t'.readByte a = t.readByte a) → t'.i = t.i → t'.quirks = t.quirks → (∀ r c, t'.pixel r c = t.pixel r c) →
    (t'.reg x').toNat % 64 = (s.reg x).toNat % 64 → (t'.reg y').toNat % 32 = (s.reg y).toNat % 32 →
    exec (.drw x' y' n) t' = .next u →
    (∀ r c, u.pixel r c = s.pixel r c) ∧
    ((∀ r c, s.pixel r c = false) → t.reg VF = 0#8 ∧
      u.reg VF = (if ∃ r c, t.pixel r c = true then 1#8 else 0#8))

/-! ### Jumps, calls, returns and skips (43_control.md) -/

/-- R140: PC and nothing else. -/
def Obligations.JumpSetsPcOnly : Prop :=
  ∀ (nnn : Word) (s : State), ∃ t, exec (.jp nnn) s = .next t ∧ t.pc = nnn ∧ UnchangedBut [.pc] s t

/-- R143: the offset is V0, or under QUIRK_JUMP_VX the register that nnn[11:8] names; the target is not reduced modulo 4096.
Both are the spec's own decisions, D9 and D2. -/
def Obligations.JumpWithOffset : Prop :=
  ∀ (nnn : Word) (s : State), addrFits nnn = true → ∃ t, exec (.jpV0 nnn) s = .next t ∧
    t.pc.toNat = nnn.toNat +
      (s.reg (if s.quirks.jumpVx then ⟨nnn.toNat / 256 % 16, Nat.mod_lt _ (by decide)⟩ else 0)).toNat ∧
    UnchangedBut [.pc] s t

/-- R141: the push and the jump, and StackOverflow with nothing changed when 16 return addresses are held. -/
def Obligations.CallPushesOrOverflows : Prop :=
  ∀ (nnn : Word) (s : State),
    (∀ h : s.sp.val < 16, ∃ t, exec (.call nnn) s = .next t ∧ t.stackAt ⟨s.sp.val, h⟩ = s.pc + 2#16 ∧
      (∀ j : Fin 16, j.val ≠ s.sp.val → t.stackAt j = s.stackAt j) ∧ t.sp.val = s.sp.val + 1 ∧ t.pc = nnn ∧
      UnchangedBut [.stack, .sp, .pc] s t) ∧
    (s.sp.val = 16 → exec (.call nnn) s = .next { s with mode := .faulted (.stackOverflow s.pc) })

/-- R142: the pop, which leaves STACK as it is, and StackUnderflow on an empty stack. That nothing but the mode changes then, PC
kept at a, is R204, the spec's own decision D18 (notes/assumptions/4.md). -/
def Obligations.ReturnPopsOrUnderflows : Prop :=
  ∀ s : State,
    (∀ h : 0 < s.sp.val, ∃ t, exec .ret s = .next t ∧ t.sp.val = s.sp.val - 1 ∧
      t.pc = s.stackAt ⟨s.sp.val - 1, by omega⟩ ∧ UnchangedBut [.sp, .pc] s t) ∧
    (s.sp.val = 0 → exec .ret s = .next { s with mode := .faulted (.stackUnderflow s.pc) })

/-- R150, which the spec marks as derived: a CALL, and a RET in any later state whose SP and top entry are the ones the CALL left
(what a body of matched calls and
returns leaves them). -/
def Obligations.CallThenReturnRoundTrip : Prop :=
  ∀ (nnn : Word) (s t t' : State) (h : s.sp.val < 16), exec (.call nnn) s = .next t → t'.sp = t.sp →
    t'.stackAt ⟨s.sp.val, h⟩ = t.stackAt ⟨s.sp.val, h⟩ →
    ∃ u, exec .ret t' = .next u ∧ u.pc = s.pc + 2#16 ∧ u.sp = s.sp

/-- R144 to R148: the four skips. A skip is PC = a + 4; memory is not read, so what stands in the skipped word does not matter. -/
def Obligations.SkipsPassOverOneWord : Prop :=
  ∀ (x y : Reg) (kk : Byte) (s : State) (i : Instr) (c : Prop),
    ((i = .seByte x kk ∧ (c ↔ s.reg x = kk)) ∨ (i = .sneByte x kk ∧ (c ↔ s.reg x ≠ kk)) ∨
     (i = .seReg x y ∧ (c ↔ s.reg x = s.reg y)) ∨ (i = .sneReg x y ∧ (c ↔ s.reg x ≠ s.reg y))) →
    ∃ t, exec i s = .next t ∧ (c → t.pc = s.pc + 4#16) ∧ (¬ c → t.pc = s.pc + 2#16) ∧ UnchangedBut [.pc] s t

/-! ### Keys (44_keypad.md) -/

/-- R160 and R161: the key of Vx's low nibble (the spec's own decision D15), as the keypad stands. -/
def Obligations.KeySkipsTestTheLowNibblesKey : Prop :=
  ∀ (x : Reg) (s : State) (k : Nat), k = (s.reg x).toNat % 16 →
    (∃ t, exec (.skp x) s = .next t ∧ t.pc = (if s.key k then s.pc + 4#16 else s.pc + 2#16) ∧ UnchangedBut [.pc] s t) ∧
    (∃ t, exec (.sknp x) s = .next t ∧ t.pc = (if s.key k then s.pc + 2#16 else s.pc + 4#16) ∧ UnchangedBut [.pc] s t)

/-- R162: the wait begins, PC stays, and no register is written, even if a key is down (the spec's own decision D16). -/
def Obligations.KeyWaitBeginsBlocked : Prop :=
  ∀ (x : Reg) (s : State), ∃ t, exec (.ldVxK x) s = .next t ∧ t.mode = .blocked x s.keys ∧ UnchangedBut [.mode] s t

/-- R164: a step in mode Blocked. With no newly pressed key only prev changes; else the lowest new key completes the wait
(the lowest: the spec's own decision D16). -/
def Obligations.KeyWaitPollTakesTheLowestNewKey : Prop :=
  ∀ (s : State) (x : Reg) (prev : Keypad), s.mode = .blocked x prev →
    ((∀ k, k < 16 → s.key k = true → prev.getLsbD k = true) → step s = .next { s with mode := .blocked x s.keys }) ∧
    (∀ k, k < 16 → s.key k = true → prev.getLsbD k = false →
      (∀ j, j < k → ¬ (s.key j = true ∧ prev.getLsbD j = false)) →
      ∃ t, step s = .next t ∧ (t.reg x).toNat = k ∧ t.mode = .running ∧ t.pc = s.pc + 2#16 ∧
        RegsUnchangedBut [x] s t ∧ UnchangedBut [.v, .pc, .mode] s t)

/-- R247 and R168: with no key newly pressed, a blocked machine makes no progress in any number of steps; a key held when the wait
began does not complete it. The spec marks both rules as derived. -/
def Obligations.KeyWaitWithoutAPressNeverEnds : Prop :=
  ∀ (s : State) (x : Reg) (prev : Keypad) (k : Nat), s.mode = .blocked x prev →
    (∀ j, j < 16 → s.key j = true → prev.getLsbD j = true) →
    s.ObservedAfter (k + 1) { s with mode := .blocked x s.keys }

/-! ### Index register, font, BCD, loads and stores (45_index_memory.md) -/

/-- R170 and R172; the font's address 0x050 is the spec's own decision D6. -/
def Obligations.IndexLoadsAndFontAddress : Prop :=
  (∀ (nnn : Word) (s : State), ∃ t, exec (.ldI nnn) s = .next t ∧ t.i = nnn ∧ t.pc = s.pc + 2#16 ∧ UnchangedBut [.i, .pc] s t) ∧
  (∀ (x : Reg) (s : State), ∃ t, exec (.ldF x) s = .next t ∧ t.i.toNat = 0x050 + 5 * ((s.reg x).toNat % 16) ∧
    t.pc = s.pc + 2#16 ∧ UnchangedBut [.i, .pc] s t)

/-- R171: the sum in 16 bits; VF only under QUIRK_ADDI_FLAG, from the old I, last. -/
def Obligations.AddToIndexWrapsInSixteenBits : Prop :=
  ∀ (x : Reg) (s : State), ∃ t, exec (.addI x) s = .next t ∧
    t.i.toNat = (s.i.toNat + (s.reg x).toNat) % 65536 ∧
    (s.quirks.addIFlag = true → t.reg VF = (if s.i.toNat + (s.reg x).toNat > 0xFFF then 1#8 else 0#8)) ∧
    RegsUnchangedBut (if s.quirks.addIFlag then [VF] else []) s t ∧ t.pc = s.pc + 2#16 ∧ UnchangedBut [.i, .v, .pc] s t

/-- R173: the three digits at I, I + 1, I + 2; or the lowest address that fails its check, and nothing changed. That nothing but the
mode changes on the fault, PC kept at a, is R204, the spec's own decision D18 (notes/assumptions/4.md). -/
def Obligations.BcdStoresThreeDigitsOrFaults : Prop :=
  ∀ (x : Reg) (s : State),
    ((∀ j, j < 3 → WriteOk s.quirks (s.i.toNat + j)) → ∃ t, exec (.ldB x) s = .next t ∧
      (Memory.wf s.mem →
        (t.readByte s.i.toNat).toNat = (s.reg x).toNat / 100 ∧
        (t.readByte (s.i.toNat + 1)).toNat = (s.reg x).toNat / 10 % 10 ∧
        (t.readByte (s.i.toNat + 2)).toNat = (s.reg x).toNat % 10) ∧
      MemUnchangedOutside s.i.toNat 3 s t ∧ t.pc = s.pc + 2#16 ∧ UnchangedBut [.mem, .pc] s t) ∧
    (∀ j, j < 3 → ¬ WriteOk s.quirks (s.i.toNat + j) → (∀ k, k < j → WriteOk s.quirks (s.i.toNat + k)) →
      exec (.ldB x) s = .next { s with mode := .faulted (.outOfBoundsAccess s.pc (s.i.toNat + j)) })

/-- R174: V0 to Vx to memory at I and the increment of I, the spec's own decision D10; or the lowest address that fails its check,
and nothing changed. That nothing but the
mode changes on the fault, PC kept at a, is R204, the spec's own decision D18 (notes/assumptions/4.md). -/
def Obligations.StoreRegistersOrFault : Prop :=
  ∀ (x : Reg) (s : State),
    ((∀ j, j ≤ x.val → WriteOk s.quirks (s.i.toNat + j)) → ∃ t, exec (.storeRegs x) s = .next t ∧
      (Memory.wf s.mem → ∀ r : Reg, r ≤ x → t.readByte (s.i.toNat + r.val) = s.reg r) ∧
      MemUnchangedOutside s.i.toNat (x.val + 1) s t ∧
      t.i.toNat = (if s.quirks.loadStoreIncrementsI then s.i.toNat + x.val + 1 else s.i.toNat) ∧
      t.pc = s.pc + 2#16 ∧ UnchangedBut [.mem, .i, .pc] s t) ∧
    (∀ j, j ≤ x.val → ¬ WriteOk s.quirks (s.i.toNat + j) → (∀ k, k < j → WriteOk s.quirks (s.i.toNat + k)) →
      exec (.storeRegs x) s = .next { s with mode := .faulted (.outOfBoundsAccess s.pc (s.i.toNat + j)) })

/-- R175: memory at I to V0 to Vx and the increment of I, the spec's own decision D10; or the lowest address that fails its check,
and nothing changed. That nothing but the
mode changes on the fault, PC kept at a, is R204, the spec's own decision D18 (notes/assumptions/4.md). -/
def Obligations.LoadRegistersOrFault : Prop :=
  ∀ (x : Reg) (s : State),
    ((∀ j, j ≤ x.val → ReadOk (s.i.toNat + j)) → ∃ t, exec (.loadRegs x) s = .next t ∧
      (∀ r : Reg, r ≤ x → t.reg r = s.readByte (s.i.toNat + r.val)) ∧ (∀ r : Reg, x < r → t.reg r = s.reg r) ∧
      t.i.toNat = (if s.quirks.loadStoreIncrementsI then s.i.toNat + x.val + 1 else s.i.toNat) ∧
      t.pc = s.pc + 2#16 ∧ UnchangedBut [.v, .i, .pc] s t) ∧
    (∀ j, j ≤ x.val → ¬ ReadOk (s.i.toNat + j) → (∀ k, k < j → ReadOk (s.i.toNat + k)) →
      exec (.loadRegs x) s = .next { s with mode := .faulted (.outOfBoundsAccess s.pc (s.i.toNat + j)) })

/-! ### Timers, tick, reset and the command interface -/

/-- R180 to R182. -/
def Obligations.TimerInstructions : Prop :=
  ∀ (x : Reg) (s : State),
    (∃ t, exec (.ldVxDt x) s = .next t ∧ t.reg x = s.dt ∧ RegsUnchangedBut [x] s t ∧ t.pc = s.pc + 2#16 ∧
      UnchangedBut [.v, .pc] s t) ∧
    (∃ t, exec (.ldDtVx x) s = .next t ∧ t.dt = s.reg x ∧ t.pc = s.pc + 2#16 ∧ UnchangedBut [.dt, .pc] s t) ∧
    (∃ t, exec (.ldStVx x) s = .next t ∧ t.st = s.reg x ∧ t.soundActive = decide (s.reg x ≠ 0#8) ∧ t.pc = s.pc + 2#16 ∧
      UnchangedBut [.st, .pc] s t)

/-- R211: the two timers count down independently and stop at 0, the same in Running and in Blocked mode; in Faulted mode nothing
changes (the spec's own decision D18). -/
def Obligations.TickCountsBothTimersDown : Prop :=
  ∀ s : State,
    ((∀ f, s.mode ≠ .faulted f) → s.tick.dt.toNat = s.dt.toNat - 1 ∧ s.tick.st.toNat = s.st.toNat - 1 ∧
      UnchangedBut [.dt, .st] s s.tick) ∧
    (∀ f, s.mode = .faulted f → s.tick = s)

/-- R212: after LD DT, Vx with V[x] = N > 0, N ticks leave DT = 0 and one more leaves it 0; the same of LD ST, Vx and ST (which the
spec marks as derived). -/
def Obligations.TimersDecayToZeroAndStay : Prop :=
  ∀ (x : Reg) (s t : State) (N : Nat), (∀ f, s.mode ≠ .faulted f) → N = (s.reg x).toNat → 0 < N →
    (exec (.ldDtVx x) s = .next t → (∀ k, k ≤ N → (State.tick^[k] t).dt.toNat = N - k) ∧ (State.tick^[N + 1] t).dt = 0#8) ∧
    (exec (.ldStVx x) s = .next t → (∀ k, k ≤ N → (State.tick^[k] t).st.toNat = N - k) ∧ (State.tick^[N + 1] t).st = 0#8)

/-- R37: the value of every part of S after a reset, with the ROM at 0x200 and the font at 0x050. All but PC, the
ROM and the mode rest on the spec's own decisions D5 and D6. -/
def Obligations.ResetValues : Prop :=
  ∀ (s t : State) (rom : List Byte), s.resetWith rom = .ok t →
    t.pc = 0x200#16 ∧
    (∀ j (h : j < 80), t.readByte (0x050 + j) = fontData.getD j 0#8) ∧
    (∀ j (h : j < rom.length), t.readByte (0x200 + j) = rom[j]) ∧
    (∀ a, a < 0x050 ∨ (0x0A0 ≤ a ∧ a < 0x200) ∨ 0x200 + rom.length ≤ a → t.readByte a = 0x00#8) ∧
    (∀ r, t.reg r = 0#8) ∧ t.i = 0#16 ∧ t.sp.val = 0 ∧ (∀ j, t.stackAt j = 0#16) ∧ t.dt = 0#8 ∧ t.st = 0#8 ∧
    (∀ r c, t.pixel r c = false) ∧ t.mode = .running

/-- R218: a ROM of more than 3584 bytes fails and changes no state; one of at most 3584 bytes is copied to 0x200 and on, and the
load touches nothing else. -/
def Obligations.LoadCopiesTheRomOrFails : Prop :=
  ∀ (s : State) (rom : List Byte),
    (3584 < rom.length → s.load rom = .error .romTooLarge ∧ command (.reset rom) s = .next ⟨s, some .romTooLarge⟩) ∧
    (rom.length ≤ 3584 → ∃ t, s.load rom = .ok t ∧
      (Memory.wf s.mem → ∀ j (h : j < rom.length), t.readByte (0x200 + j) = rom[j]) ∧
      MemUnchangedOutside 0x200 rom.length s t ∧ UnchangedBut [.mem] s t ∧
      ∃ u, command (.reset rom) s = .next ⟨u, none⟩)

/-- R246: once a run is idle at p, no step changes the state; a tick keeps it idle (the spec's own
decision D26). -/
def Obligations.IdleRunsStayIdle : Prop :=
  ∀ (s : State) (p : Nat), s.IdleAt p → (∀ k, s.ObservedAfter k s) ∧ s.tick.IdleAt p

/-- R217, R243 and R244: a slice is the keypad update, the steps, and then one tick: every step of it sees the same keypad, and the
timers count down once, after all of them. The spec marks R243 and R244 as derived. -/
def Obligations.SliceStepsSeeOneKeypadAndTickOnce : Prop :=
  ∀ (s t : State) (k : Keypad) (n : Nat), runCommands (sliceCommands (some k) n) s = .next t →
    (∀ j, j ≤ n → ∃ u, (s.setKeys k).ObservedAfter j u ∧ u.keys = k) ∧
    ∃ u, (s.setKeys k).ObservedAfter n u ∧ t = u.tick
end

