-- ==== Sys2Proof/Laws/Decode.lean ====
section
/-! SUPPORT. Fields and formats: extracting a field from a format gives the field back (R72, R73), a word is made of its fields, the
opcode masks keep exactly the fixed bits (R76), and the two bytes of a word make it again (R52). -/

namespace Sys2Proof

theorem regBits_toFin (x : Reg) : (regBits x).toFin = x := rfl

/-! ### Fields of the formats -/

@[simp] theorem fieldOp_formatXKK (op : BitVec 4) (x : Reg) (kk : Byte) : fieldOp (formatXKK op x kk) = op :=
  (BitVec.extractLsb'_append_eq_of_le (by decide)).trans
    ((BitVec.extractLsb'_append_eq_of_le (by decide)).trans BitVec.extractLsb'_eq_self)

@[simp] theorem fieldX_formatXKK (op : BitVec 4) (x : Reg) (kk : Byte) : fieldX (formatXKK op x kk) = x :=
  congrArg BitVec.toFin ((BitVec.extractLsb'_append_eq_of_le (by decide)).trans
    ((BitVec.extractLsb'_append_eq_of_add_le (by decide)).trans BitVec.extractLsb'_eq_self))

@[simp] theorem fieldKk_formatXKK (op : BitVec 4) (x : Reg) (kk : Byte) : fieldKk (formatXKK op x kk) = kk :=
  (BitVec.extractLsb'_append_eq_of_add_le (by decide)).trans BitVec.extractLsb'_eq_self

@[simp] theorem fieldOp_formatXFF (op : BitVec 4) (x : Reg) (fn : Byte) : fieldOp (formatXFF op x fn) = op :=
  fieldOp_formatXKK op x fn

@[simp] theorem fieldX_formatXFF (op : BitVec 4) (x : Reg) (fn : Byte) : fieldX (formatXFF op x fn) = x :=
  fieldX_formatXKK op x fn

@[simp] theorem fieldKk_formatXFF (op : BitVec 4) (x : Reg) (fn : Byte) : fieldKk (formatXFF op x fn) = fn :=
  fieldKk_formatXKK op x fn

@[simp] theorem fieldOp_formatXYN (op : BitVec 4) (x y : Reg) (n : BitVec 4) : fieldOp (formatXYN op x y n) = op :=
  fieldOp_formatXKK op x (regBits y ++ n)

@[simp] theorem fieldX_formatXYN (op : BitVec 4) (x y : Reg) (n : BitVec 4) : fieldX (formatXYN op x y n) = x :=
  fieldX_formatXKK op x (regBits y ++ n)

@[simp] theorem fieldY_formatXYN (op : BitVec 4) (x y : Reg) (n : BitVec 4) : fieldY (formatXYN op x y n) = y :=
  congrArg BitVec.toFin ((BitVec.extractLsb'_append_eq_of_add_le (by decide)).trans
    ((BitVec.extractLsb'_append_eq_of_le (by decide)).trans BitVec.extractLsb'_eq_self))

@[simp] theorem fieldN_formatXYN (op : BitVec 4) (x y : Reg) (n : BitVec 4) : fieldN (formatXYN op x y n) = n :=
  (BitVec.extractLsb'_append_eq_of_add_le (by decide)).trans
    ((BitVec.extractLsb'_append_eq_of_add_le (by decide)).trans BitVec.extractLsb'_eq_self)

@[simp] theorem fieldOp_formatNNN (op : BitVec 4) (nnn : Word) : fieldOp (formatNNN op nnn) = op :=
  (BitVec.extractLsb'_append_eq_of_le (by decide)).trans BitVec.extractLsb'_eq_self

/-- A 12-bit address comes back as it was. -/
theorem fieldNnn_formatNNN (op : BitVec 4) {nnn : Word} (h : addrFits nnn = true) : fieldNnn (formatNNN op nnn) = nnn := by
  have e : ((formatNNN op nnn).extractLsb 11 0 : BitVec 12) = nnn.extractLsb 11 0 :=
    (BitVec.extractLsb'_append_eq_of_add_le (by decide)).trans BitVec.extractLsb'_eq_self
  unfold fieldNnn
  rw [e]
  apply BitVec.eq_of_toNat_eq
  simp only [addrFits, decide_eq_true_eq] at h
  simp
  omega

/-- The address operand of a word is a 12-bit value (R74). -/
theorem addrFits_fieldNnn (w : Word) : addrFits (fieldNnn w) = true := by
  simp only [addrFits, fieldNnn, decide_eq_true_eq, BitVec.toNat_setWidth]
  have : ((w.extractLsb 11 0 : BitVec 12)).toNat < 2 ^ 12 := BitVec.isLt _
  omega

/-! ### A word is made of its fields -/

theorem formatXKK_fields (w : Word) : formatXKK (fieldOp w) (fieldX w) (fieldKk w) = w := by
  have e : (fieldOp w ++ regBits (fieldX w)) = w.extractLsb' 8 8 :=
    BitVec.extractLsb'_append_extractLsb'_eq_extractLsb' rfl
  unfold formatXKK
  rw [e]
  exact (BitVec.extractLsb'_append_extractLsb'_eq_extractLsb' rfl).trans BitVec.extractLsb'_eq_self

theorem formatXYN_fields (w : Word) : formatXYN (fieldOp w) (fieldX w) (fieldY w) (fieldN w) = w := by
  have e : (regBits (fieldY w) ++ fieldN w) = fieldKk w :=
    BitVec.extractLsb'_append_extractLsb'_eq_extractLsb' rfl
  unfold formatXYN
  rw [e]
  exact formatXKK_fields w

theorem formatNNN_fields (w : Word) : formatNNN (fieldOp w) (fieldNnn w) = w := by
  have e : ((fieldNnn w).extractLsb 11 0 : BitVec 12) = w.extractLsb' 0 12 := by
    apply BitVec.eq_of_toNat_eq
    simp [fieldNnn]
  have d : formatNNN (fieldOp w) (fieldNnn w) = (fieldOp w ++ w.extractLsb' 0 12 : BitVec 16) :=
    congrArg (fun z : BitVec 12 => (fieldOp w ++ z : BitVec 16)) e
  rw [d]
  exact (BitVec.extractLsb'_append_extractLsb'_eq_extractLsb' rfl).trans BitVec.extractLsb'_eq_self

/-- The two bytes of a word make the word (R52). -/
@[simp] theorem wordOfBytes_highByte_lowByte (w : Word) : wordOfBytes (highByte w) (lowByte w) = w :=
  (BitVec.extractLsb'_append_extractLsb'_eq_extractLsb' rfl).trans BitVec.extractLsb'_eq_self

/-! ### The masks of the opcode table (R76) -/

theorem and_0xF (a : BitVec 4) : a &&& 0xF#4 = a := BitVec.and_allOnes (x := a)

theorem and_0xFF (a : BitVec 8) : a &&& 0xFF#8 = a := BitVec.and_allOnes (x := a)

theorem formatXKK_and_F000 (op : BitVec 4) (x : Reg) (kk : Byte) :
    formatXKK op x kk &&& 0xF000#16 = (op ++ 0#4) ++ 0#8 := by
  refine (BitVec.and_append (x₁ := op ++ regBits x) (y₁ := kk) (x₂ := 0xF#4 ++ 0x0#4) (y₂ := 0#8)).trans ?_
  rw [BitVec.and_append, BitVec.and_zero, BitVec.and_zero, and_0xF]

theorem formatXFF_and_F0FF (op : BitVec 4) (x : Reg) (fn : Byte) :
    formatXFF op x fn &&& 0xF0FF#16 = (op ++ 0#4) ++ fn := by
  refine (BitVec.and_append (x₁ := op ++ regBits x) (y₁ := fn) (x₂ := 0xF#4 ++ 0x0#4) (y₂ := 0xFF#8)).trans ?_
  rw [BitVec.and_append, BitVec.and_zero, and_0xF, and_0xFF]

theorem formatXYN_and_F00F (op : BitVec 4) (x y : Reg) (n : BitVec 4) :
    formatXYN op x y n &&& 0xF00F#16 = (op ++ 0#4) ++ (0#4 ++ n) := by
  refine (BitVec.and_append (x₁ := op ++ regBits x) (y₁ := regBits y ++ n) (x₂ := 0xF#4 ++ 0x0#4)
    (y₂ := 0x0#4 ++ 0xF#4)).trans ?_
  rw [BitVec.and_append, BitVec.and_append, BitVec.and_zero, BitVec.and_zero, and_0xF,
    and_0xF]

theorem formatXYN_and_F000 (op : BitVec 4) (x y : Reg) (n : BitVec 4) :
    formatXYN op x y n &&& 0xF000#16 = (op ++ 0#4) ++ 0#8 := formatXKK_and_F000 op x (regBits y ++ n)

theorem formatNNN_and_F000 (op : BitVec 4) (nnn : Word) : formatNNN op nnn &&& 0xF000#16 = op ++ 0#12 := by
  refine (BitVec.and_append (x₁ := op) (y₁ := (nnn.extractLsb 11 0 : BitVec 12)) (x₂ := 0xF#4) (y₂ := 0x000#12)).trans ?_
  rw [BitVec.and_zero, and_0xF]

theorem row_matches {r : OpcodeRow} {w : Word} (h : w &&& r.mask = r.pattern) : r.matches w = true := beq_iff_eq.mpr h

/-- `decodeWord` answers an instruction exactly when the opcode switch does. -/
theorem decodeWord_eq_ok {w : Word} {i : Instr} : decodeWord w = .ok i ↔ decodeOp w = some i := by
  unfold decodeWord
  cases decodeOp w <;> simp

theorem decodeWord_eq_error {w : Word} {r : Reject} :
    decodeWord w = .error r ↔ decodeOp w = none ∧ r = .unknownInstruction w := by
  unfold decodeWord
  cases decodeOp w <;> simp [eq_comm]

end Sys2Proof
end

