-- ==== Sys2Proof/Laws/Memory.lean ====
section
/-! SUPPORT. The laws of memory: a read after a write, and that every operation keeps the canonical form. -/

namespace Sys2Proof.Machine

@[simp] theorem Memory.read_nil (a : Nat) : Memory.read [] a = Memory.unlisted a := rfl

/-- An address below every listed one reads as unlisted. -/
theorem Memory.read_of_lt {m : Memory} {a : Nat} (h : ∀ c ∈ m, a < c.1) : Memory.read m a = Memory.unlisted a := by
  induction m with
  | nil => rfl
  | cons c m ih =>
    have hc : c.1 ≠ a := (Nat.ne_of_lt (h c (by simp))).symm
    simp only [Memory.read, hc, if_false]
    exact ih fun d hd => h d (by simp [hd])

/-- An entry of the list after a write is an old entry or the written byte, which is then not what the address reads as unlisted. -/
theorem Memory.mem_write {m : Memory} {a : Nat} {b : Byte} {c : Host.Cell} (h : c ∈ Memory.write m a b) :
    c ∈ m ∨ (c = (a, b) ∧ b ≠ Memory.unlisted a) := by
  induction m with
  | nil =>
    simp only [Memory.write] at h
    split at h
    · simp at h
    · exact .inr ⟨by simpa using h, ‹_›⟩
  | cons d m ih =>
    simp only [Memory.write] at h
    split at h
    · rcases List.mem_cons.mp h with rfl | h
      · exact .inl (by simp)
      · exact (ih h).imp (fun h => by simp [h]) id
    · split at h <;> split at h <;> simp only [List.mem_cons] at h ⊢ <;> tauto

/-- A read after a write gives the written byte at its address, and what was there before at every other one (R61). -/
theorem Memory.read_write {m : Memory} (h : Memory.wf m) (a : Nat) (b : Byte) (a' : Nat) :
    Memory.read (Memory.write m a b) a' = if a' = a then b else Memory.read m a' := by
  replace h := h.1
  induction m with
  | nil =>
    simp only [Memory.write]
    split
    · split <;> simp_all
    · simp only [Memory.read, eq_comm]
  | cons c m ih =>
    obtain ⟨hc, hm⟩ := List.pairwise_cons.mp h
    simp only [Memory.write]
    split
    · simp only [Memory.read, ih hm]
      split <;> split <;> first | rfl | omega
    · have hlow : c.1 = a → Memory.read m a = Memory.unlisted a := fun e => Memory.read_of_lt fun d hd => e ▸ hc d hd
      have hlow' : c.1 ≠ a → Memory.read (c :: m) a = Memory.unlisted a := fun e => Memory.read_of_lt fun d hd => by
        rcases List.mem_cons.mp hd with rfl | hd
        · omega
        · exact Nat.lt_trans (by omega) (hc d hd)
      by_cases hca : c.1 = a <;> by_cases hb : b = Memory.unlisted a <;> by_cases ha : a' = a
      all_goals simp_all [Memory.read]
      all_goals (try split) <;> first | rfl | omega

/-- A write leaves every other address as it was, whatever the list (R61). -/
theorem Memory.read_write_of_ne (m : Memory) {a a' : Nat} (b : Byte) (h : a' ≠ a) :
    Memory.read (Memory.write m a b) a' = Memory.read m a' := by
  induction m with
  | nil =>
    simp only [Memory.write]
    split <;> simp [Memory.read, Ne.symm h]
  | cons c m ih =>
    simp only [Memory.write]
    split
    · simp only [Memory.read, ih]
    · by_cases hc : c.1 = a
      · by_cases hb : b = Memory.unlisted a <;> simp [hc, hb, Memory.read, Ne.symm h]
      · by_cases hb : b = Memory.unlisted a <;> simp [hc, hb, Memory.read, Ne.symm h]

/-- Bytes written leave every address outside them as it was. -/
theorem Memory.read_writeBytes_outside (m : Memory) {a a' : Nat} (bs : List Byte)
    (h : a' < a ∨ a + bs.length ≤ a') : Memory.read (Memory.writeBytes m a bs) a' = Memory.read m a' := by
  induction bs generalizing m a with
  | nil => rfl
  | cons b bs ih =>
    simp only [List.length_cons] at h
    rw [Memory.writeBytes, ih (Memory.write m a b) (by omega), Memory.read_write_of_ne m b (by omega)]

/-- Memory after a write within 0x000 to 0xFFF is in canonical form. -/
theorem Memory.wf_write {m : Memory} (h : Memory.wf m) {a : Nat} (ha : a < Config.memSize) (b : Byte) :
    Memory.wf (Memory.write m a b) := by
  obtain ⟨hs, hb⟩ := h
  refine ⟨?_, fun c hc => ?_⟩
  · clear hb
    induction m with
    | nil => simp only [Memory.write]; split <;> simp
    | cons c m ih =>
      obtain ⟨hc, hm⟩ := List.pairwise_cons.mp hs
      simp only [Memory.write]
      split
      · refine List.pairwise_cons.mpr ⟨fun d hd => ?_, ih hm⟩
        rcases Memory.mem_write hd with hd | ⟨rfl, -⟩
        · exact hc d hd
        · assumption
      · have habove : (if c.1 = a then m else c :: m).Pairwise (fun c d => c.1 < d.1) := by split <;> assumption
        have hlt : ∀ d ∈ (if c.1 = a then m else c :: m), a < d.1 := fun d hd => by
          split at hd
          · rename_i e; exact e ▸ hc d hd
          · rcases List.mem_cons.mp hd with rfl | hd
            · omega
            · exact Nat.lt_trans (by omega) (hc d hd)
        split
        · exact habove
        · exact List.pairwise_cons.mpr ⟨hlt, habove⟩
  · rcases Memory.mem_write hc with hc | ⟨rfl, hne⟩
    · exact hb c hc
    · exact ⟨ha, hne⟩

/-- Bytes written within 0x000 to 0xFFF leave memory in canonical form. -/
theorem Memory.wf_writeBytes {m : Memory} (h : Memory.wf m) {a : Nat} {bs : List Byte}
    (ha : a + bs.length ≤ Config.memSize) : Memory.wf (Memory.writeBytes m a bs) := by
  induction bs generalizing m a with
  | nil => exact h
  | cons b bs ih =>
    simp only [List.length_cons] at ha
    exact ih (Memory.wf_write h (by omega) b) (by omega)

/-- A read after bytes were written: the byte written there, or what was there before. -/
theorem Memory.read_writeBytes {m : Memory} (h : Memory.wf m) {a : Nat} {bs : List Byte}
    (ha : a + bs.length ≤ Config.memSize) (a' : Nat) :
    Memory.read (Memory.writeBytes m a bs) a' =
      if a ≤ a' then bs.getD (a' - a) (Memory.read m a') else Memory.read m a' := by
  induction bs generalizing m a with
  | nil => simp [Memory.writeBytes]
  | cons b bs ih =>
    simp only [List.length_cons] at ha
    have hw := Memory.wf_write h (a := a) (by omega) b
    rw [Memory.writeBytes, ih hw (by omega), Memory.read_write h]
    rcases Nat.lt_trichotomy a a' with hlt | heq | hgt
    · have e : a' - a = (a' - (a + 1)) + 1 := by omega
      simp [show a + 1 ≤ a' from hlt, hlt.le, e, show a' ≠ a by omega]
    · subst heq; simp
    · simp [show ¬ a + 1 ≤ a' by omega, show ¬ a ≤ a' by omega, show a' ≠ a by omega]

@[simp] theorem Memory.length_readBytes (m : Memory) (a n : Nat) : (Memory.readBytes m a n).length = n := by
  simp [Memory.readBytes]

theorem Memory.getElem_readBytes (m : Memory) (a n j : Nat) (h : j < n) :
    (Memory.readBytes m a n)[j]'(by simpa using h) = Memory.read m (a + j) := by
  simp [Memory.readBytes]

/-- The memory right after reset is in canonical form. -/
theorem Memory.wf_reset : Memory.wf State.reset.mem := by simp [Memory.wf, State.reset]

/-- A checked read answers the byte exactly at the addresses 0x000 to 0xFFF (R51). -/
theorem Memory.checkedRead_eq (m : Memory) (a : Nat) :
    Memory.checkedRead m a = if a ≤ 0xFFF then .ok (Memory.read m a) else .error a := by
  simp only [Memory.checkedRead]
  split <;> split <;> first | rfl | omega

/-- A fetch: the big-endian word when both bytes are in memory, else the address of the first byte that is not (R52, R53). -/
theorem Memory.fetchWord_eq (m : Memory) (a : Nat) :
    Memory.fetchWord m a =
      if a ≤ 0xFFE then .ok (wordOfBytes (Memory.read m a) (Memory.read m (a + 1)))
      else .error (if a > 0xFFF then a else 0x1000) := by
  simp only [Memory.fetchWord, Memory.checkedRead_eq]
  by_cases h1 : a ≤ 0xFFE
  · simp [h1, show a ≤ 0xFFF by omega, show a < 4095 by omega]
  · by_cases h2 : a ≤ 0xFFF
    · simp [h1, h2, show ¬ a > 0xFFF by omega, show a + 1 = 0x1000 by omega]
    · simp [h1, h2, show a > 0xFFF by omega]

/-! ### The checks before the first write -/

/-- No address fails exactly when each of the `n` passes. -/
theorem firstBad_eq_none {bad : Nat → Bool} {base n : Nat} :
    firstBad bad base n = none ↔ ∀ j, j < n → bad (base + j) = false := by
  simp [firstBad]

/-- The reported address is the lowest that fails. -/
theorem firstBad_eq_some {bad : Nat → Bool} {base n a : Nat} :
    firstBad bad base n = some a ↔
      ∃ j, j < n ∧ a = base + j ∧ bad a = true ∧ ∀ k, k < j → bad (base + k) = false := by
  induction n generalizing a with
  | zero => simp [firstBad]
  | succ n ih =>
    have e : firstBad bad base (n + 1) = (firstBad bad base n).or (if bad (base + n) then some (base + n) else none) := by
      simp only [firstBad, List.range_succ, List.map_append, List.find?_append, List.map_cons, List.map_nil, List.find?_cons,
        List.find?_nil]
      cases bad (base + n) <;> rfl
    rw [e]
    cases hf : firstBad bad base n with
    | some a' =>
      obtain ⟨j', hj', ha', hb', hl'⟩ := ih.mp hf
      rw [Option.some_or, ← hf, ih]
      constructor
      · rintro ⟨j, hj, rest⟩; exact ⟨j, by omega, rest⟩
      · rintro ⟨j, hj, rfl, hb, hl⟩
        refine ⟨j, ?_, rfl, hb, hl⟩
        rcases Nat.lt_or_ge j n with h | h
        · exact h
        · have := hl j' (by omega)
          simp_all
    | none =>
      have hall := firstBad_eq_none.mp hf
      rw [Option.none_or]
      constructor
      · intro h
        split at h
        · cases h; exact ⟨n, by omega, rfl, ‹_›, hall⟩
        · cases h
      · rintro ⟨j, hj, rfl, hb, -⟩
        have : j = n := by
          rcases Nat.lt_or_ge j n with h | h
          · have := hall j h; simp_all
          · omega
        subst this; simp [hb]

end Sys2Proof.Machine
end

