-- ==== Sys2Proof/Laws/State.lean ====
section
/-! SUPPORT. One lemma per field per update of the state, and per read: each true by rfl. Later proofs use these and do not unfold a
record update. The lemmas about a part that an update does change by a read of it stand in Laws/Ops.lean. -/

namespace Sys2Proof.Machine


/-! ### setReg -/

@[simp] theorem State.setReg_mem (s : State) (r : Reg) (b : Byte) : (s.setReg r b).mem = s.mem := rfl
@[simp] theorem State.setReg_v (s : State) (r : Reg) (b : Byte) : (s.setReg r b).v = s.v.set r.val b r.isLt := rfl
@[simp] theorem State.setReg_i (s : State) (r : Reg) (b : Byte) : (s.setReg r b).i = s.i := rfl
@[simp] theorem State.setReg_pc (s : State) (r : Reg) (b : Byte) : (s.setReg r b).pc = s.pc := rfl
@[simp] theorem State.setReg_stack (s : State) (r : Reg) (b : Byte) : (s.setReg r b).stack = s.stack := rfl
@[simp] theorem State.setReg_sp (s : State) (r : Reg) (b : Byte) : (s.setReg r b).sp = s.sp := rfl
@[simp] theorem State.setReg_dt (s : State) (r : Reg) (b : Byte) : (s.setReg r b).dt = s.dt := rfl
@[simp] theorem State.setReg_st (s : State) (r : Reg) (b : Byte) : (s.setReg r b).st = s.st := rfl
@[simp] theorem State.setReg_fb (s : State) (r : Reg) (b : Byte) : (s.setReg r b).fb = s.fb := rfl
@[simp] theorem State.setReg_mode (s : State) (r : Reg) (b : Byte) : (s.setReg r b).mode = s.mode := rfl
@[simp] theorem State.setReg_keys (s : State) (r : Reg) (b : Byte) : (s.setReg r b).keys = s.keys := rfl
@[simp] theorem State.setReg_draws (s : State) (r : Reg) (b : Byte) : (s.setReg r b).draws = s.draws := rfl
@[simp] theorem State.setReg_quirks (s : State) (r : Reg) (b : Byte) : (s.setReg r b).quirks = s.quirks := rfl
@[simp] theorem State.setReg_readByte (s : State) (r : Reg) (b : Byte) (a : Nat) : (s.setReg r b).readByte a = s.readByte a := rfl
@[simp] theorem State.setReg_pixel (s : State) (r : Reg) (b : Byte) (y : Fin 32) (x : Fin 64) : (s.setReg r b).pixel y x = s.pixel y x := rfl
@[simp] theorem State.setReg_stackAt (s : State) (r : Reg) (b : Byte) (j : Fin 16) : (s.setReg r b).stackAt j = s.stackAt j := rfl
@[simp] theorem State.setReg_key (s : State) (r : Reg) (b : Byte) (n : Nat) : (s.setReg r b).key n = s.key n := rfl
@[simp] theorem State.setReg_nxt (s : State) (r : Reg) (b : Byte) : (s.setReg r b).nxt = s.nxt := rfl

/-! ### setRegs -/

@[simp] theorem State.setRegs_mem (s : State) (v : Vector Byte 16) : (s.setRegs v).mem = s.mem := rfl
@[simp] theorem State.setRegs_v (s : State) (v : Vector Byte 16) : (s.setRegs v).v = v := rfl
@[simp] theorem State.setRegs_i (s : State) (v : Vector Byte 16) : (s.setRegs v).i = s.i := rfl
@[simp] theorem State.setRegs_pc (s : State) (v : Vector Byte 16) : (s.setRegs v).pc = s.pc := rfl
@[simp] theorem State.setRegs_stack (s : State) (v : Vector Byte 16) : (s.setRegs v).stack = s.stack := rfl
@[simp] theorem State.setRegs_sp (s : State) (v : Vector Byte 16) : (s.setRegs v).sp = s.sp := rfl
@[simp] theorem State.setRegs_dt (s : State) (v : Vector Byte 16) : (s.setRegs v).dt = s.dt := rfl
@[simp] theorem State.setRegs_st (s : State) (v : Vector Byte 16) : (s.setRegs v).st = s.st := rfl
@[simp] theorem State.setRegs_fb (s : State) (v : Vector Byte 16) : (s.setRegs v).fb = s.fb := rfl
@[simp] theorem State.setRegs_mode (s : State) (v : Vector Byte 16) : (s.setRegs v).mode = s.mode := rfl
@[simp] theorem State.setRegs_keys (s : State) (v : Vector Byte 16) : (s.setRegs v).keys = s.keys := rfl
@[simp] theorem State.setRegs_draws (s : State) (v : Vector Byte 16) : (s.setRegs v).draws = s.draws := rfl
@[simp] theorem State.setRegs_quirks (s : State) (v : Vector Byte 16) : (s.setRegs v).quirks = s.quirks := rfl
@[simp] theorem State.setRegs_readByte (s : State) (v : Vector Byte 16) (a : Nat) : (s.setRegs v).readByte a = s.readByte a := rfl
@[simp] theorem State.setRegs_pixel (s : State) (v : Vector Byte 16) (y : Fin 32) (x : Fin 64) : (s.setRegs v).pixel y x = s.pixel y x := rfl
@[simp] theorem State.setRegs_stackAt (s : State) (v : Vector Byte 16) (j : Fin 16) : (s.setRegs v).stackAt j = s.stackAt j := rfl
@[simp] theorem State.setRegs_key (s : State) (v : Vector Byte 16) (n : Nat) : (s.setRegs v).key n = s.key n := rfl
@[simp] theorem State.setRegs_nxt (s : State) (v : Vector Byte 16) : (s.setRegs v).nxt = s.nxt := rfl

/-! ### setI -/

@[simp] theorem State.setI_mem (s : State) (w : Word) : (s.setI w).mem = s.mem := rfl
@[simp] theorem State.setI_v (s : State) (w : Word) : (s.setI w).v = s.v := rfl
@[simp] theorem State.setI_i (s : State) (w : Word) : (s.setI w).i = w := rfl
@[simp] theorem State.setI_pc (s : State) (w : Word) : (s.setI w).pc = s.pc := rfl
@[simp] theorem State.setI_stack (s : State) (w : Word) : (s.setI w).stack = s.stack := rfl
@[simp] theorem State.setI_sp (s : State) (w : Word) : (s.setI w).sp = s.sp := rfl
@[simp] theorem State.setI_dt (s : State) (w : Word) : (s.setI w).dt = s.dt := rfl
@[simp] theorem State.setI_st (s : State) (w : Word) : (s.setI w).st = s.st := rfl
@[simp] theorem State.setI_fb (s : State) (w : Word) : (s.setI w).fb = s.fb := rfl
@[simp] theorem State.setI_mode (s : State) (w : Word) : (s.setI w).mode = s.mode := rfl
@[simp] theorem State.setI_keys (s : State) (w : Word) : (s.setI w).keys = s.keys := rfl
@[simp] theorem State.setI_draws (s : State) (w : Word) : (s.setI w).draws = s.draws := rfl
@[simp] theorem State.setI_quirks (s : State) (w : Word) : (s.setI w).quirks = s.quirks := rfl
@[simp] theorem State.setI_reg (s : State) (w : Word) (q : Reg) : (s.setI w).reg q = s.reg q := rfl
@[simp] theorem State.setI_readByte (s : State) (w : Word) (a : Nat) : (s.setI w).readByte a = s.readByte a := rfl
@[simp] theorem State.setI_pixel (s : State) (w : Word) (y : Fin 32) (x : Fin 64) : (s.setI w).pixel y x = s.pixel y x := rfl
@[simp] theorem State.setI_stackAt (s : State) (w : Word) (j : Fin 16) : (s.setI w).stackAt j = s.stackAt j := rfl
@[simp] theorem State.setI_key (s : State) (w : Word) (n : Nat) : (s.setI w).key n = s.key n := rfl
@[simp] theorem State.setI_nxt (s : State) (w : Word) : (s.setI w).nxt = s.nxt := rfl

/-! ### setPc -/

@[simp] theorem State.setPc_mem (s : State) (w : Word) : (s.setPc w).mem = s.mem := rfl
@[simp] theorem State.setPc_v (s : State) (w : Word) : (s.setPc w).v = s.v := rfl
@[simp] theorem State.setPc_i (s : State) (w : Word) : (s.setPc w).i = s.i := rfl
@[simp] theorem State.setPc_pc (s : State) (w : Word) : (s.setPc w).pc = w := rfl
@[simp] theorem State.setPc_stack (s : State) (w : Word) : (s.setPc w).stack = s.stack := rfl
@[simp] theorem State.setPc_sp (s : State) (w : Word) : (s.setPc w).sp = s.sp := rfl
@[simp] theorem State.setPc_dt (s : State) (w : Word) : (s.setPc w).dt = s.dt := rfl
@[simp] theorem State.setPc_st (s : State) (w : Word) : (s.setPc w).st = s.st := rfl
@[simp] theorem State.setPc_fb (s : State) (w : Word) : (s.setPc w).fb = s.fb := rfl
@[simp] theorem State.setPc_mode (s : State) (w : Word) : (s.setPc w).mode = s.mode := rfl
@[simp] theorem State.setPc_keys (s : State) (w : Word) : (s.setPc w).keys = s.keys := rfl
@[simp] theorem State.setPc_draws (s : State) (w : Word) : (s.setPc w).draws = s.draws := rfl
@[simp] theorem State.setPc_quirks (s : State) (w : Word) : (s.setPc w).quirks = s.quirks := rfl
@[simp] theorem State.setPc_reg (s : State) (w : Word) (q : Reg) : (s.setPc w).reg q = s.reg q := rfl
@[simp] theorem State.setPc_readByte (s : State) (w : Word) (a : Nat) : (s.setPc w).readByte a = s.readByte a := rfl
@[simp] theorem State.setPc_pixel (s : State) (w : Word) (y : Fin 32) (x : Fin 64) : (s.setPc w).pixel y x = s.pixel y x := rfl
@[simp] theorem State.setPc_stackAt (s : State) (w : Word) (j : Fin 16) : (s.setPc w).stackAt j = s.stackAt j := rfl
@[simp] theorem State.setPc_key (s : State) (w : Word) (n : Nat) : (s.setPc w).key n = s.key n := rfl

/-! ### setMem -/

@[simp] theorem State.setMem_mem (s : State) (m : Memory) : (s.setMem m).mem = m := rfl
@[simp] theorem State.setMem_v (s : State) (m : Memory) : (s.setMem m).v = s.v := rfl
@[simp] theorem State.setMem_i (s : State) (m : Memory) : (s.setMem m).i = s.i := rfl
@[simp] theorem State.setMem_pc (s : State) (m : Memory) : (s.setMem m).pc = s.pc := rfl
@[simp] theorem State.setMem_stack (s : State) (m : Memory) : (s.setMem m).stack = s.stack := rfl
@[simp] theorem State.setMem_sp (s : State) (m : Memory) : (s.setMem m).sp = s.sp := rfl
@[simp] theorem State.setMem_dt (s : State) (m : Memory) : (s.setMem m).dt = s.dt := rfl
@[simp] theorem State.setMem_st (s : State) (m : Memory) : (s.setMem m).st = s.st := rfl
@[simp] theorem State.setMem_fb (s : State) (m : Memory) : (s.setMem m).fb = s.fb := rfl
@[simp] theorem State.setMem_mode (s : State) (m : Memory) : (s.setMem m).mode = s.mode := rfl
@[simp] theorem State.setMem_keys (s : State) (m : Memory) : (s.setMem m).keys = s.keys := rfl
@[simp] theorem State.setMem_draws (s : State) (m : Memory) : (s.setMem m).draws = s.draws := rfl
@[simp] theorem State.setMem_quirks (s : State) (m : Memory) : (s.setMem m).quirks = s.quirks := rfl
@[simp] theorem State.setMem_reg (s : State) (m : Memory) (q : Reg) : (s.setMem m).reg q = s.reg q := rfl
@[simp] theorem State.setMem_pixel (s : State) (m : Memory) (y : Fin 32) (x : Fin 64) : (s.setMem m).pixel y x = s.pixel y x := rfl
@[simp] theorem State.setMem_stackAt (s : State) (m : Memory) (j : Fin 16) : (s.setMem m).stackAt j = s.stackAt j := rfl
@[simp] theorem State.setMem_key (s : State) (m : Memory) (n : Nat) : (s.setMem m).key n = s.key n := rfl
@[simp] theorem State.setMem_nxt (s : State) (m : Memory) : (s.setMem m).nxt = s.nxt := rfl

/-! ### setStack -/

@[simp] theorem State.setStack_mem (s : State) (k : Vector Word 16) (p : Fin 17) : (s.setStack k p).mem = s.mem := rfl
@[simp] theorem State.setStack_v (s : State) (k : Vector Word 16) (p : Fin 17) : (s.setStack k p).v = s.v := rfl
@[simp] theorem State.setStack_i (s : State) (k : Vector Word 16) (p : Fin 17) : (s.setStack k p).i = s.i := rfl
@[simp] theorem State.setStack_pc (s : State) (k : Vector Word 16) (p : Fin 17) : (s.setStack k p).pc = s.pc := rfl
@[simp] theorem State.setStack_stack (s : State) (k : Vector Word 16) (p : Fin 17) : (s.setStack k p).stack = k := rfl
@[simp] theorem State.setStack_sp (s : State) (k : Vector Word 16) (p : Fin 17) : (s.setStack k p).sp = p := rfl
@[simp] theorem State.setStack_dt (s : State) (k : Vector Word 16) (p : Fin 17) : (s.setStack k p).dt = s.dt := rfl
@[simp] theorem State.setStack_st (s : State) (k : Vector Word 16) (p : Fin 17) : (s.setStack k p).st = s.st := rfl
@[simp] theorem State.setStack_fb (s : State) (k : Vector Word 16) (p : Fin 17) : (s.setStack k p).fb = s.fb := rfl
@[simp] theorem State.setStack_mode (s : State) (k : Vector Word 16) (p : Fin 17) : (s.setStack k p).mode = s.mode := rfl
@[simp] theorem State.setStack_keys (s : State) (k : Vector Word 16) (p : Fin 17) : (s.setStack k p).keys = s.keys := rfl
@[simp] theorem State.setStack_draws (s : State) (k : Vector Word 16) (p : Fin 17) : (s.setStack k p).draws = s.draws := rfl
@[simp] theorem State.setStack_quirks (s : State) (k : Vector Word 16) (p : Fin 17) : (s.setStack k p).quirks = s.quirks := rfl
@[simp] theorem State.setStack_reg (s : State) (k : Vector Word 16) (p : Fin 17) (q : Reg) : (s.setStack k p).reg q = s.reg q := rfl
@[simp] theorem State.setStack_readByte (s : State) (k : Vector Word 16) (p : Fin 17) (a : Nat) : (s.setStack k p).readByte a = s.readByte a := rfl
@[simp] theorem State.setStack_pixel (s : State) (k : Vector Word 16) (p : Fin 17) (y : Fin 32) (x : Fin 64) : (s.setStack k p).pixel y x = s.pixel y x := rfl
@[simp] theorem State.setStack_key (s : State) (k : Vector Word 16) (p : Fin 17) (n : Nat) : (s.setStack k p).key n = s.key n := rfl
@[simp] theorem State.setStack_nxt (s : State) (k : Vector Word 16) (p : Fin 17) : (s.setStack k p).nxt = s.nxt := rfl

/-! ### setDt -/

@[simp] theorem State.setDt_mem (s : State) (b : Byte) : (s.setDt b).mem = s.mem := rfl
@[simp] theorem State.setDt_v (s : State) (b : Byte) : (s.setDt b).v = s.v := rfl
@[simp] theorem State.setDt_i (s : State) (b : Byte) : (s.setDt b).i = s.i := rfl
@[simp] theorem State.setDt_pc (s : State) (b : Byte) : (s.setDt b).pc = s.pc := rfl
@[simp] theorem State.setDt_stack (s : State) (b : Byte) : (s.setDt b).stack = s.stack := rfl
@[simp] theorem State.setDt_sp (s : State) (b : Byte) : (s.setDt b).sp = s.sp := rfl
@[simp] theorem State.setDt_dt (s : State) (b : Byte) : (s.setDt b).dt = b := rfl
@[simp] theorem State.setDt_st (s : State) (b : Byte) : (s.setDt b).st = s.st := rfl
@[simp] theorem State.setDt_fb (s : State) (b : Byte) : (s.setDt b).fb = s.fb := rfl
@[simp] theorem State.setDt_mode (s : State) (b : Byte) : (s.setDt b).mode = s.mode := rfl
@[simp] theorem State.setDt_keys (s : State) (b : Byte) : (s.setDt b).keys = s.keys := rfl
@[simp] theorem State.setDt_draws (s : State) (b : Byte) : (s.setDt b).draws = s.draws := rfl
@[simp] theorem State.setDt_quirks (s : State) (b : Byte) : (s.setDt b).quirks = s.quirks := rfl
@[simp] theorem State.setDt_reg (s : State) (b : Byte) (q : Reg) : (s.setDt b).reg q = s.reg q := rfl
@[simp] theorem State.setDt_readByte (s : State) (b : Byte) (a : Nat) : (s.setDt b).readByte a = s.readByte a := rfl
@[simp] theorem State.setDt_pixel (s : State) (b : Byte) (y : Fin 32) (x : Fin 64) : (s.setDt b).pixel y x = s.pixel y x := rfl
@[simp] theorem State.setDt_stackAt (s : State) (b : Byte) (j : Fin 16) : (s.setDt b).stackAt j = s.stackAt j := rfl
@[simp] theorem State.setDt_key (s : State) (b : Byte) (n : Nat) : (s.setDt b).key n = s.key n := rfl
@[simp] theorem State.setDt_nxt (s : State) (b : Byte) : (s.setDt b).nxt = s.nxt := rfl

/-! ### setSt -/

@[simp] theorem State.setSt_mem (s : State) (b : Byte) : (s.setSt b).mem = s.mem := rfl
@[simp] theorem State.setSt_v (s : State) (b : Byte) : (s.setSt b).v = s.v := rfl
@[simp] theorem State.setSt_i (s : State) (b : Byte) : (s.setSt b).i = s.i := rfl
@[simp] theorem State.setSt_pc (s : State) (b : Byte) : (s.setSt b).pc = s.pc := rfl
@[simp] theorem State.setSt_stack (s : State) (b : Byte) : (s.setSt b).stack = s.stack := rfl
@[simp] theorem State.setSt_sp (s : State) (b : Byte) : (s.setSt b).sp = s.sp := rfl
@[simp] theorem State.setSt_dt (s : State) (b : Byte) : (s.setSt b).dt = s.dt := rfl
@[simp] theorem State.setSt_st (s : State) (b : Byte) : (s.setSt b).st = b := rfl
@[simp] theorem State.setSt_fb (s : State) (b : Byte) : (s.setSt b).fb = s.fb := rfl
@[simp] theorem State.setSt_mode (s : State) (b : Byte) : (s.setSt b).mode = s.mode := rfl
@[simp] theorem State.setSt_keys (s : State) (b : Byte) : (s.setSt b).keys = s.keys := rfl
@[simp] theorem State.setSt_draws (s : State) (b : Byte) : (s.setSt b).draws = s.draws := rfl
@[simp] theorem State.setSt_quirks (s : State) (b : Byte) : (s.setSt b).quirks = s.quirks := rfl
@[simp] theorem State.setSt_reg (s : State) (b : Byte) (q : Reg) : (s.setSt b).reg q = s.reg q := rfl
@[simp] theorem State.setSt_readByte (s : State) (b : Byte) (a : Nat) : (s.setSt b).readByte a = s.readByte a := rfl
@[simp] theorem State.setSt_pixel (s : State) (b : Byte) (y : Fin 32) (x : Fin 64) : (s.setSt b).pixel y x = s.pixel y x := rfl
@[simp] theorem State.setSt_stackAt (s : State) (b : Byte) (j : Fin 16) : (s.setSt b).stackAt j = s.stackAt j := rfl
@[simp] theorem State.setSt_key (s : State) (b : Byte) (n : Nat) : (s.setSt b).key n = s.key n := rfl
@[simp] theorem State.setSt_nxt (s : State) (b : Byte) : (s.setSt b).nxt = s.nxt := rfl

/-! ### setFb -/

@[simp] theorem State.setFb_mem (s : State) (f : Framebuffer) : (s.setFb f).mem = s.mem := rfl
@[simp] theorem State.setFb_v (s : State) (f : Framebuffer) : (s.setFb f).v = s.v := rfl
@[simp] theorem State.setFb_i (s : State) (f : Framebuffer) : (s.setFb f).i = s.i := rfl
@[simp] theorem State.setFb_pc (s : State) (f : Framebuffer) : (s.setFb f).pc = s.pc := rfl
@[simp] theorem State.setFb_stack (s : State) (f : Framebuffer) : (s.setFb f).stack = s.stack := rfl
@[simp] theorem State.setFb_sp (s : State) (f : Framebuffer) : (s.setFb f).sp = s.sp := rfl
@[simp] theorem State.setFb_dt (s : State) (f : Framebuffer) : (s.setFb f).dt = s.dt := rfl
@[simp] theorem State.setFb_st (s : State) (f : Framebuffer) : (s.setFb f).st = s.st := rfl
@[simp] theorem State.setFb_fb (s : State) (f : Framebuffer) : (s.setFb f).fb = f := rfl
@[simp] theorem State.setFb_mode (s : State) (f : Framebuffer) : (s.setFb f).mode = s.mode := rfl
@[simp] theorem State.setFb_keys (s : State) (f : Framebuffer) : (s.setFb f).keys = s.keys := rfl
@[simp] theorem State.setFb_draws (s : State) (f : Framebuffer) : (s.setFb f).draws = s.draws := rfl
@[simp] theorem State.setFb_quirks (s : State) (f : Framebuffer) : (s.setFb f).quirks = s.quirks := rfl
@[simp] theorem State.setFb_reg (s : State) (f : Framebuffer) (q : Reg) : (s.setFb f).reg q = s.reg q := rfl
@[simp] theorem State.setFb_readByte (s : State) (f : Framebuffer) (a : Nat) : (s.setFb f).readByte a = s.readByte a := rfl
@[simp] theorem State.setFb_stackAt (s : State) (f : Framebuffer) (j : Fin 16) : (s.setFb f).stackAt j = s.stackAt j := rfl
@[simp] theorem State.setFb_key (s : State) (f : Framebuffer) (n : Nat) : (s.setFb f).key n = s.key n := rfl
@[simp] theorem State.setFb_nxt (s : State) (f : Framebuffer) : (s.setFb f).nxt = s.nxt := rfl

/-! ### setMode -/

@[simp] theorem State.setMode_mem (s : State) (m : Mode) : (s.setMode m).mem = s.mem := rfl
@[simp] theorem State.setMode_v (s : State) (m : Mode) : (s.setMode m).v = s.v := rfl
@[simp] theorem State.setMode_i (s : State) (m : Mode) : (s.setMode m).i = s.i := rfl
@[simp] theorem State.setMode_pc (s : State) (m : Mode) : (s.setMode m).pc = s.pc := rfl
@[simp] theorem State.setMode_stack (s : State) (m : Mode) : (s.setMode m).stack = s.stack := rfl
@[simp] theorem State.setMode_sp (s : State) (m : Mode) : (s.setMode m).sp = s.sp := rfl
@[simp] theorem State.setMode_dt (s : State) (m : Mode) : (s.setMode m).dt = s.dt := rfl
@[simp] theorem State.setMode_st (s : State) (m : Mode) : (s.setMode m).st = s.st := rfl
@[simp] theorem State.setMode_fb (s : State) (m : Mode) : (s.setMode m).fb = s.fb := rfl
@[simp] theorem State.setMode_mode (s : State) (m : Mode) : (s.setMode m).mode = m := rfl
@[simp] theorem State.setMode_keys (s : State) (m : Mode) : (s.setMode m).keys = s.keys := rfl
@[simp] theorem State.setMode_draws (s : State) (m : Mode) : (s.setMode m).draws = s.draws := rfl
@[simp] theorem State.setMode_quirks (s : State) (m : Mode) : (s.setMode m).quirks = s.quirks := rfl
@[simp] theorem State.setMode_reg (s : State) (m : Mode) (q : Reg) : (s.setMode m).reg q = s.reg q := rfl
@[simp] theorem State.setMode_readByte (s : State) (m : Mode) (a : Nat) : (s.setMode m).readByte a = s.readByte a := rfl
@[simp] theorem State.setMode_pixel (s : State) (m : Mode) (y : Fin 32) (x : Fin 64) : (s.setMode m).pixel y x = s.pixel y x := rfl
@[simp] theorem State.setMode_stackAt (s : State) (m : Mode) (j : Fin 16) : (s.setMode m).stackAt j = s.stackAt j := rfl
@[simp] theorem State.setMode_key (s : State) (m : Mode) (n : Nat) : (s.setMode m).key n = s.key n := rfl
@[simp] theorem State.setMode_nxt (s : State) (m : Mode) : (s.setMode m).nxt = s.nxt := rfl

/-! ### setKeys -/

@[simp] theorem State.setKeys_mem (s : State) (k : Keypad) : (s.setKeys k).mem = s.mem := rfl
@[simp] theorem State.setKeys_v (s : State) (k : Keypad) : (s.setKeys k).v = s.v := rfl
@[simp] theorem State.setKeys_i (s : State) (k : Keypad) : (s.setKeys k).i = s.i := rfl
@[simp] theorem State.setKeys_pc (s : State) (k : Keypad) : (s.setKeys k).pc = s.pc := rfl
@[simp] theorem State.setKeys_stack (s : State) (k : Keypad) : (s.setKeys k).stack = s.stack := rfl
@[simp] theorem State.setKeys_sp (s : State) (k : Keypad) : (s.setKeys k).sp = s.sp := rfl
@[simp] theorem State.setKeys_dt (s : State) (k : Keypad) : (s.setKeys k).dt = s.dt := rfl
@[simp] theorem State.setKeys_st (s : State) (k : Keypad) : (s.setKeys k).st = s.st := rfl
@[simp] theorem State.setKeys_fb (s : State) (k : Keypad) : (s.setKeys k).fb = s.fb := rfl
@[simp] theorem State.setKeys_mode (s : State) (k : Keypad) : (s.setKeys k).mode = s.mode := rfl
@[simp] theorem State.setKeys_keys (s : State) (k : Keypad) : (s.setKeys k).keys = k := rfl
@[simp] theorem State.setKeys_draws (s : State) (k : Keypad) : (s.setKeys k).draws = s.draws := rfl
@[simp] theorem State.setKeys_quirks (s : State) (k : Keypad) : (s.setKeys k).quirks = s.quirks := rfl
@[simp] theorem State.setKeys_reg (s : State) (k : Keypad) (q : Reg) : (s.setKeys k).reg q = s.reg q := rfl
@[simp] theorem State.setKeys_readByte (s : State) (k : Keypad) (a : Nat) : (s.setKeys k).readByte a = s.readByte a := rfl
@[simp] theorem State.setKeys_pixel (s : State) (k : Keypad) (y : Fin 32) (x : Fin 64) : (s.setKeys k).pixel y x = s.pixel y x := rfl
@[simp] theorem State.setKeys_stackAt (s : State) (k : Keypad) (j : Fin 16) : (s.setKeys k).stackAt j = s.stackAt j := rfl
@[simp] theorem State.setKeys_nxt (s : State) (k : Keypad) : (s.setKeys k).nxt = s.nxt := rfl

/-! ### countDraw -/

@[simp] theorem State.countDraw_mem (s : State) : s.countDraw.mem = s.mem := rfl
@[simp] theorem State.countDraw_v (s : State) : s.countDraw.v = s.v := rfl
@[simp] theorem State.countDraw_i (s : State) : s.countDraw.i = s.i := rfl
@[simp] theorem State.countDraw_pc (s : State) : s.countDraw.pc = s.pc := rfl
@[simp] theorem State.countDraw_stack (s : State) : s.countDraw.stack = s.stack := rfl
@[simp] theorem State.countDraw_sp (s : State) : s.countDraw.sp = s.sp := rfl
@[simp] theorem State.countDraw_dt (s : State) : s.countDraw.dt = s.dt := rfl
@[simp] theorem State.countDraw_st (s : State) : s.countDraw.st = s.st := rfl
@[simp] theorem State.countDraw_fb (s : State) : s.countDraw.fb = s.fb := rfl
@[simp] theorem State.countDraw_mode (s : State) : s.countDraw.mode = s.mode := rfl
@[simp] theorem State.countDraw_keys (s : State) : s.countDraw.keys = s.keys := rfl
@[simp] theorem State.countDraw_draws (s : State) : s.countDraw.draws = s.draws + 1 := rfl
@[simp] theorem State.countDraw_quirks (s : State) : s.countDraw.quirks = s.quirks := rfl
@[simp] theorem State.countDraw_reg (s : State) (q : Reg) : s.countDraw.reg q = s.reg q := rfl
@[simp] theorem State.countDraw_readByte (s : State) (a : Nat) : s.countDraw.readByte a = s.readByte a := rfl
@[simp] theorem State.countDraw_pixel (s : State) (y : Fin 32) (x : Fin 64) : s.countDraw.pixel y x = s.pixel y x := rfl
@[simp] theorem State.countDraw_stackAt (s : State) (j : Fin 16) : s.countDraw.stackAt j = s.stackAt j := rfl
@[simp] theorem State.countDraw_key (s : State) (n : Nat) : s.countDraw.key n = s.key n := rfl
@[simp] theorem State.countDraw_nxt (s : State) : s.countDraw.nxt = s.nxt := rfl

/-! ### advance -/

@[simp] theorem State.advance_mem (s : State) : s.advance.mem = s.mem := rfl
@[simp] theorem State.advance_v (s : State) : s.advance.v = s.v := rfl
@[simp] theorem State.advance_i (s : State) : s.advance.i = s.i := rfl
@[simp] theorem State.advance_pc (s : State) : s.advance.pc = s.nxt := rfl
@[simp] theorem State.advance_stack (s : State) : s.advance.stack = s.stack := rfl
@[simp] theorem State.advance_sp (s : State) : s.advance.sp = s.sp := rfl
@[simp] theorem State.advance_dt (s : State) : s.advance.dt = s.dt := rfl
@[simp] theorem State.advance_st (s : State) : s.advance.st = s.st := rfl
@[simp] theorem State.advance_fb (s : State) : s.advance.fb = s.fb := rfl
@[simp] theorem State.advance_mode (s : State) : s.advance.mode = s.mode := rfl
@[simp] theorem State.advance_keys (s : State) : s.advance.keys = s.keys := rfl
@[simp] theorem State.advance_draws (s : State) : s.advance.draws = s.draws := rfl
@[simp] theorem State.advance_quirks (s : State) : s.advance.quirks = s.quirks := rfl
@[simp] theorem State.advance_reg (s : State) (q : Reg) : s.advance.reg q = s.reg q := rfl
@[simp] theorem State.advance_readByte (s : State) (a : Nat) : s.advance.readByte a = s.readByte a := rfl
@[simp] theorem State.advance_pixel (s : State) (y : Fin 32) (x : Fin 64) : s.advance.pixel y x = s.pixel y x := rfl
@[simp] theorem State.advance_stackAt (s : State) (j : Fin 16) : s.advance.stackAt j = s.stackAt j := rfl
@[simp] theorem State.advance_key (s : State) (n : Nat) : s.advance.key n = s.key n := rfl

/-! ### skipIf -/

@[simp] theorem State.skipIf_mem (s : State) (c : Bool) : (s.skipIf c).mem = s.mem := rfl
@[simp] theorem State.skipIf_v (s : State) (c : Bool) : (s.skipIf c).v = s.v := rfl
@[simp] theorem State.skipIf_i (s : State) (c : Bool) : (s.skipIf c).i = s.i := rfl
@[simp] theorem State.skipIf_pc (s : State) (c : Bool) : (s.skipIf c).pc = if c then s.nxt + 2#16 else s.nxt := rfl
@[simp] theorem State.skipIf_stack (s : State) (c : Bool) : (s.skipIf c).stack = s.stack := rfl
@[simp] theorem State.skipIf_sp (s : State) (c : Bool) : (s.skipIf c).sp = s.sp := rfl
@[simp] theorem State.skipIf_dt (s : State) (c : Bool) : (s.skipIf c).dt = s.dt := rfl
@[simp] theorem State.skipIf_st (s : State) (c : Bool) : (s.skipIf c).st = s.st := rfl
@[simp] theorem State.skipIf_fb (s : State) (c : Bool) : (s.skipIf c).fb = s.fb := rfl
@[simp] theorem State.skipIf_mode (s : State) (c : Bool) : (s.skipIf c).mode = s.mode := rfl
@[simp] theorem State.skipIf_keys (s : State) (c : Bool) : (s.skipIf c).keys = s.keys := rfl
@[simp] theorem State.skipIf_draws (s : State) (c : Bool) : (s.skipIf c).draws = s.draws := rfl
@[simp] theorem State.skipIf_quirks (s : State) (c : Bool) : (s.skipIf c).quirks = s.quirks := rfl
@[simp] theorem State.skipIf_reg (s : State) (c : Bool) (q : Reg) : (s.skipIf c).reg q = s.reg q := rfl
@[simp] theorem State.skipIf_readByte (s : State) (c : Bool) (a : Nat) : (s.skipIf c).readByte a = s.readByte a := rfl
@[simp] theorem State.skipIf_pixel (s : State) (c : Bool) (y : Fin 32) (x : Fin 64) : (s.skipIf c).pixel y x = s.pixel y x := rfl
@[simp] theorem State.skipIf_stackAt (s : State) (c : Bool) (j : Fin 16) : (s.skipIf c).stackAt j = s.stackAt j := rfl
@[simp] theorem State.skipIf_key (s : State) (c : Bool) (n : Nat) : (s.skipIf c).key n = s.key n := rfl

/-! ### setFlag -/

@[simp] theorem State.setFlag_mem (s : State) (f : Bool) : (s.setFlag f).mem = s.mem := rfl
@[simp] theorem State.setFlag_i (s : State) (f : Bool) : (s.setFlag f).i = s.i := rfl
@[simp] theorem State.setFlag_pc (s : State) (f : Bool) : (s.setFlag f).pc = s.pc := rfl
@[simp] theorem State.setFlag_stack (s : State) (f : Bool) : (s.setFlag f).stack = s.stack := rfl
@[simp] theorem State.setFlag_sp (s : State) (f : Bool) : (s.setFlag f).sp = s.sp := rfl
@[simp] theorem State.setFlag_dt (s : State) (f : Bool) : (s.setFlag f).dt = s.dt := rfl
@[simp] theorem State.setFlag_st (s : State) (f : Bool) : (s.setFlag f).st = s.st := rfl
@[simp] theorem State.setFlag_fb (s : State) (f : Bool) : (s.setFlag f).fb = s.fb := rfl
@[simp] theorem State.setFlag_mode (s : State) (f : Bool) : (s.setFlag f).mode = s.mode := rfl
@[simp] theorem State.setFlag_keys (s : State) (f : Bool) : (s.setFlag f).keys = s.keys := rfl
@[simp] theorem State.setFlag_draws (s : State) (f : Bool) : (s.setFlag f).draws = s.draws := rfl
@[simp] theorem State.setFlag_quirks (s : State) (f : Bool) : (s.setFlag f).quirks = s.quirks := rfl
@[simp] theorem State.setFlag_readByte (s : State) (f : Bool) (a : Nat) : (s.setFlag f).readByte a = s.readByte a := rfl
@[simp] theorem State.setFlag_pixel (s : State) (f : Bool) (y : Fin 32) (x : Fin 64) : (s.setFlag f).pixel y x = s.pixel y x := rfl
@[simp] theorem State.setFlag_stackAt (s : State) (f : Bool) (j : Fin 16) : (s.setFlag f).stackAt j = s.stackAt j := rfl
@[simp] theorem State.setFlag_key (s : State) (f : Bool) (n : Nat) : (s.setFlag f).key n = s.key n := rfl
@[simp] theorem State.setFlag_nxt (s : State) (f : Bool) : (s.setFlag f).nxt = s.nxt := rfl

/-! ### setResultThenFlag -/

@[simp] theorem State.setResultThenFlag_mem (s : State) (r : Reg) (b : Byte) (f : Bool) : (s.setResultThenFlag r b f).mem = s.mem := rfl
@[simp] theorem State.setResultThenFlag_i (s : State) (r : Reg) (b : Byte) (f : Bool) : (s.setResultThenFlag r b f).i = s.i := rfl
@[simp] theorem State.setResultThenFlag_pc (s : State) (r : Reg) (b : Byte) (f : Bool) : (s.setResultThenFlag r b f).pc = s.pc := rfl
@[simp] theorem State.setResultThenFlag_stack (s : State) (r : Reg) (b : Byte) (f : Bool) : (s.setResultThenFlag r b f).stack = s.stack := rfl
@[simp] theorem State.setResultThenFlag_sp (s : State) (r : Reg) (b : Byte) (f : Bool) : (s.setResultThenFlag r b f).sp = s.sp := rfl
@[simp] theorem State.setResultThenFlag_dt (s : State) (r : Reg) (b : Byte) (f : Bool) : (s.setResultThenFlag r b f).dt = s.dt := rfl
@[simp] theorem State.setResultThenFlag_st (s : State) (r : Reg) (b : Byte) (f : Bool) : (s.setResultThenFlag r b f).st = s.st := rfl
@[simp] theorem State.setResultThenFlag_fb (s : State) (r : Reg) (b : Byte) (f : Bool) : (s.setResultThenFlag r b f).fb = s.fb := rfl
@[simp] theorem State.setResultThenFlag_mode (s : State) (r : Reg) (b : Byte) (f : Bool) : (s.setResultThenFlag r b f).mode = s.mode := rfl
@[simp] theorem State.setResultThenFlag_keys (s : State) (r : Reg) (b : Byte) (f : Bool) : (s.setResultThenFlag r b f).keys = s.keys := rfl
@[simp] theorem State.setResultThenFlag_draws (s : State) (r : Reg) (b : Byte) (f : Bool) : (s.setResultThenFlag r b f).draws = s.draws := rfl
@[simp] theorem State.setResultThenFlag_quirks (s : State) (r : Reg) (b : Byte) (f : Bool) : (s.setResultThenFlag r b f).quirks = s.quirks := rfl
@[simp] theorem State.setResultThenFlag_readByte (s : State) (r : Reg) (b : Byte) (f : Bool) (a : Nat) : (s.setResultThenFlag r b f).readByte a = s.readByte a := rfl
@[simp] theorem State.setResultThenFlag_pixel (s : State) (r : Reg) (b : Byte) (f : Bool) (y : Fin 32) (x : Fin 64) : (s.setResultThenFlag r b f).pixel y x = s.pixel y x := rfl
@[simp] theorem State.setResultThenFlag_stackAt (s : State) (r : Reg) (b : Byte) (f : Bool) (j : Fin 16) : (s.setResultThenFlag r b f).stackAt j = s.stackAt j := rfl
@[simp] theorem State.setResultThenFlag_key (s : State) (r : Reg) (b : Byte) (f : Bool) (n : Nat) : (s.setResultThenFlag r b f).key n = s.key n := rfl
@[simp] theorem State.setResultThenFlag_nxt (s : State) (r : Reg) (b : Byte) (f : Bool) : (s.setResultThenFlag r b f).nxt = s.nxt := rfl

/-! ### setLogicResult -/

@[simp] theorem State.setLogicResult_mem (s : State) (r : Reg) (b : Byte) : (s.setLogicResult r b).mem = s.mem := by unfold State.setLogicResult; split <;> rfl
@[simp] theorem State.setLogicResult_i (s : State) (r : Reg) (b : Byte) : (s.setLogicResult r b).i = s.i := by unfold State.setLogicResult; split <;> rfl
@[simp] theorem State.setLogicResult_pc (s : State) (r : Reg) (b : Byte) : (s.setLogicResult r b).pc = s.pc := by unfold State.setLogicResult; split <;> rfl
@[simp] theorem State.setLogicResult_stack (s : State) (r : Reg) (b : Byte) : (s.setLogicResult r b).stack = s.stack := by unfold State.setLogicResult; split <;> rfl
@[simp] theorem State.setLogicResult_sp (s : State) (r : Reg) (b : Byte) : (s.setLogicResult r b).sp = s.sp := by unfold State.setLogicResult; split <;> rfl
@[simp] theorem State.setLogicResult_dt (s : State) (r : Reg) (b : Byte) : (s.setLogicResult r b).dt = s.dt := by unfold State.setLogicResult; split <;> rfl
@[simp] theorem State.setLogicResult_st (s : State) (r : Reg) (b : Byte) : (s.setLogicResult r b).st = s.st := by unfold State.setLogicResult; split <;> rfl
@[simp] theorem State.setLogicResult_fb (s : State) (r : Reg) (b : Byte) : (s.setLogicResult r b).fb = s.fb := by unfold State.setLogicResult; split <;> rfl
@[simp] theorem State.setLogicResult_mode (s : State) (r : Reg) (b : Byte) : (s.setLogicResult r b).mode = s.mode := by unfold State.setLogicResult; split <;> rfl
@[simp] theorem State.setLogicResult_keys (s : State) (r : Reg) (b : Byte) : (s.setLogicResult r b).keys = s.keys := by unfold State.setLogicResult; split <;> rfl
@[simp] theorem State.setLogicResult_draws (s : State) (r : Reg) (b : Byte) : (s.setLogicResult r b).draws = s.draws := by unfold State.setLogicResult; split <;> rfl
@[simp] theorem State.setLogicResult_quirks (s : State) (r : Reg) (b : Byte) : (s.setLogicResult r b).quirks = s.quirks := by unfold State.setLogicResult; split <;> rfl
@[simp] theorem State.setLogicResult_readByte (s : State) (r : Reg) (b : Byte) (a : Nat) : (s.setLogicResult r b).readByte a = s.readByte a := by unfold State.setLogicResult; split <;> rfl
@[simp] theorem State.setLogicResult_pixel (s : State) (r : Reg) (b : Byte) (y : Fin 32) (x : Fin 64) : (s.setLogicResult r b).pixel y x = s.pixel y x := by unfold State.setLogicResult; split <;> rfl
@[simp] theorem State.setLogicResult_stackAt (s : State) (r : Reg) (b : Byte) (j : Fin 16) : (s.setLogicResult r b).stackAt j = s.stackAt j := by unfold State.setLogicResult; split <;> rfl
@[simp] theorem State.setLogicResult_key (s : State) (r : Reg) (b : Byte) (n : Nat) : (s.setLogicResult r b).key n = s.key n := by unfold State.setLogicResult; split <;> rfl
@[simp] theorem State.setLogicResult_nxt (s : State) (r : Reg) (b : Byte) : (s.setLogicResult r b).nxt = s.nxt := by unfold State.setLogicResult; split <;> rfl

end Sys2Proof.Machine
end

