-- ==== Sys2Proof/Laws/Ops.lean ====
section
/-! SUPPORT. One lemma per shared operation, saying once what it does: reads after writes, flags, results cut to a width, bounds
checks, taking a fault, fetch and decode. -/

namespace Sys2Proof.Machine

/-! ### Registers -/

@[simp] theorem State.reg_setReg (s : State) (r : Reg) (b : Byte) (q : Reg) :
    (s.setReg r b).reg q = if q = r then b else s.reg q := by
  simp [State.reg, State.setReg, Vector.getElem_set, eq_comm, Fin.ext_iff]

@[simp] theorem State.reg_setRegs (s : State) (v : Vector Byte 16) (q : Reg) : (s.setRegs v).reg q = v[q.val] := rfl

@[simp] theorem State.reg_setFlag (s : State) (f : Bool) (q : Reg) :
    (s.setFlag f).reg q = if q = VF then flagByte f else s.reg q := State.reg_setReg ..

/-- R112: the flag is what VF ends with, and the result is in V[x] unless x = F. -/
@[simp] theorem State.reg_setResultThenFlag (s : State) (x : Reg) (r : Byte) (f : Bool) (q : Reg) :
    (s.setResultThenFlag x r f).reg q = if q = VF then flagByte f else if q = x then r else s.reg q := by
  simp [State.setResultThenFlag]

/-- R103 to R105: the result, and VF = 0 at the end under the quirk. -/
theorem State.reg_setLogicResult (s : State) (x : Reg) (r : Byte) (q : Reg) :
    (s.setLogicResult x r).reg q =
      if s.quirks.logicResetsVf = true ∧ q = VF then 0#8 else if q = x then r else s.reg q := by
  unfold State.setLogicResult
  split <;> simp [*, flagByte]

@[simp] theorem State.stackAt_setStack (s : State) (k : Vector Word 16) (p : Fin 17) (j : Fin 16) :
    (s.setStack k p).stackAt j = k[j.val] := rfl

@[simp] theorem State.pixel_setFb (s : State) (f : Framebuffer) (r : Fin 32) (c : Fin 64) :
    (s.setFb f).pixel r c = f[r.val].getLsbD c.val := rfl

@[simp] theorem State.readByte_setMem (s : State) (m : Memory) (a : Nat) : (s.setMem m).readByte a = Memory.read m a := rfl

/-! ### Results and flags -/

theorem sum8_toNat (a b : Byte) : (sum8 a b).toNat = (a.toNat + b.toNat) % 256 := by simp [sum8]

theorem diff8_toNat (a b : Byte) : (diff8 a b).toNat = (a.toNat + 256 - b.toNat) % 256 := by simp [diff8]

theorem sumI_toNat (i : Word) (b : Byte) : (sumI i b).toNat = (i.toNat + b.toNat) % 65536 := by simp [sumI]

theorem flagByte_decide (p : Prop) [Decidable p] : flagByte (decide p) = if p then 1#8 else 0#8 := by
  by_cases h : p <;> simp [flagByte, h]

theorem flagByte_toNat (f : Bool) : (flagByte f).toNat = f.toNat := by cases f <;> rfl

theorem lowNibble_lt (b : Byte) : lowNibble b < 16 := Nat.mod_lt _ (by decide)

theorem glyphAddress_toNat {d : Nat} (h : d < 16) : (glyphAddress d).toNat = 0x050 + 5 * d := by
  simp [glyphAddress, Config.fontBase, Config.glyphBytes]
  omega

@[simp] theorem length_decimalDigits (b : Byte) : (decimalDigits b).length = 3 := rfl

/-! ### The keypad -/

/-- No key is newly pressed. -/
theorem lowestNewKey_eq_none {keys prev : Keypad} :
    lowestNewKey keys prev = none ↔ ∀ k, k < 16 → keys.getLsbD k = true → prev.getLsbD k = true := by
  simp [lowestNewKey]

/-- The key that a poll takes is newly pressed, and every lower key is not (R164, R165). -/
theorem lowestNewKey_eq_some {keys prev : Keypad} {k : Nat} :
    lowestNewKey keys prev = some k ↔
      k < 16 ∧ keys.getLsbD k = true ∧ prev.getLsbD k = false ∧
        ∀ j, j < k → ¬ (keys.getLsbD j = true ∧ prev.getLsbD j = false) := by
  simp only [lowestNewKey, List.find?_range_eq_some, Bool.and_eq_true, Bool.not_eq_true', List.mem_range]
  constructor
  · rintro ⟨⟨h1, h2⟩, h3, h4⟩
    exact ⟨h3, h1, h2, fun j hj => by simpa using h4 j hj⟩
  · rintro ⟨h3, h1, h2, h4⟩
    exact ⟨⟨h1, h2⟩, h3, fun j hj => by simpa using h4 j hj⟩

/-! ### Checks and faults -/

theorem badRead_eq_false {a : Nat} : badRead a = false ↔ a ≤ 0xFFF := by simp [badRead]

theorem badWrite_eq_false {q : Quirks} {a : Nat} :
    badWrite q a = false ↔ a ≤ 0xFFF ∧ (q.protectLowMemory = true → 0x200 ≤ a) := by
  cases hq : q.protectLowMemory <;> simp [badWrite, hq]

@[simp] theorem takeFault_eq (f : FaultRecord) (s : State) : takeFault f s = .next (s.setMode (.faulted f)) := rfl

/-- When every address passes, the effect happens. -/
theorem whenInBounds_of_ok {bad : Nat → Bool} {base n : Nat} (h : ∀ j, j < n → bad (base + j) = false) (s e : State) :
    whenInBounds bad base n s e = .next e := by
  simp [whenInBounds, firstBad_eq_none.mpr h]

/-- When one fails and all below it pass, its address is the one reported, and nothing but the mode changes. -/
theorem whenInBounds_of_bad {bad : Nat → Bool} {base n j : Nat} (hj : j < n) (hb : bad (base + j) = true)
    (hl : ∀ k, k < j → bad (base + k) = false) (s e : State) :
    whenInBounds bad base n s e = .next (s.setMode (.faulted (.outOfBoundsAccess s.pc (base + j)))) := by
  simp [whenInBounds, firstBad_eq_some.mpr ⟨j, hj, rfl, hb, hl⟩]

/-- All that a checked instruction can do: its effect when every address passes, or the fault of the lowest that does not. -/
theorem whenInBounds_cases {bad : Nat → Bool} {base n : Nat} {s e t : State} (h : whenInBounds bad base n s e = .next t) :
    ((∀ j, j < n → bad (base + j) = false) ∧ t = e) ∨
      ∃ j, j < n ∧ bad (base + j) = true ∧ t = s.setMode (.faulted (.outOfBoundsAccess s.pc (base + j))) := by
  unfold whenInBounds at h
  split at h
  · rename_i a ha
    obtain ⟨j, hj, rfl, hb, -⟩ := firstBad_eq_some.mp ha
    exact .inr ⟨j, hj, hb, by simpa [eq_comm] using h⟩
  · rename_i hn
    exact .inl ⟨firstBad_eq_none.mp hn, by simpa [eq_comm] using h⟩

/-! ### Fetch and decode -/

/-- A fetch in bounds decodes the big-endian word at `PC` (R52, R70). -/
theorem fetchDecode_of_le {s : State} (h : s.pc.toNat ≤ 0xFFE) :
    fetchDecode s =
      match decodeOp (wordOfBytes (s.readByte s.pc.toNat) (s.readByte (s.pc.toNat + 1))) with
      | some i => .ok i
      | none => .error (.unknownInstruction s.pc (wordOfBytes (s.readByte s.pc.toNat) (s.readByte (s.pc.toNat + 1)))) := by
  unfold fetchDecode decodeWord
  rw [Memory.fetchWord_eq, if_pos h]
  simp only [State.readByte]
  cases decodeOp (wordOfBytes (Memory.read s.mem s.pc.toNat) (Memory.read s.mem (s.pc.toNat + 1))) <;> rfl

/-- A fetch out of bounds faults with the first byte's address that is outside memory (R53). -/
theorem fetchDecode_of_gt {s : State} (h : 0xFFE < s.pc.toNat) :
    fetchDecode s = .error (.outOfBoundsAccess s.pc (if s.pc.toNat > 0xFFF then s.pc.toNat else 0x1000)) := by
  unfold fetchDecode
  rw [Memory.fetchWord_eq, if_neg (by omega)]

end Sys2Proof.Machine
end

