-- ==== Sys2Proof/Laws/Display.lean ====
section
/-! SUPPORT. The draw loop of R131 said once: it toggles each position that a lit sprite bit lands on, in order; the positions are
distinct (R133), so each pixel is toggled at most once, and collision is that one of them was lit. -/

namespace Sys2Proof.Machine

/-- Where the lit bits of one sprite byte land, in the order of the loop. -/
def rowPositions (wrap : Bool) (x0 py : Nat) (b : Byte) : List (Nat × Nat) :=
  ((List.range 8).filter fun c => b.getLsbD (7 - c)).map fun c => placePixel wrap (x0 + c) py

/-- Where the lit bits of a sprite land, in the order of the loop. -/
def spritePositions (wrap : Bool) (x0 : Nat) : Nat → List Byte → List (Nat × Nat)
  | _, [] => []
  | py, b :: bs => rowPositions wrap x0 py b ++ spritePositions wrap x0 (py + 1) bs

/-- Positions toggled one after another. -/
def toggleAll (ps : List (Nat × Nat)) (d : Drawing) : Drawing := ps.foldl (fun d p => togglePixel p.1 p.2 d) d

theorem drawRow_eq_toggleAll (wrap : Bool) (x0 py : Nat) (b : Byte) (d : Drawing) :
    drawRow wrap x0 py b d = toggleAll (rowPositions wrap x0 py b) d := by
  unfold drawRow toggleAll rowPositions
  rw [List.foldl_map, List.foldl_filter]
  rfl

/-- The loop toggles the sprite's positions in order. -/
theorem drawRows_eq_toggleAll (wrap : Bool) (x0 py : Nat) (bs : List Byte) (d : Drawing) :
    drawRows wrap x0 py bs d = toggleAll (spritePositions wrap x0 py bs) d := by
  induction bs generalizing py d with
  | nil => rfl
  | cons b bs ih => simp only [drawRows, spritePositions, ih, drawRow_eq_toggleAll, toggleAll, List.foldl_append]

/-- A position of the sprite is that of some lit bit. -/
theorem mem_spritePositions {wrap : Bool} {x0 py : Nat} {bs : List Byte} {p : Nat × Nat} :
    p ∈ spritePositions wrap x0 py bs ↔
      ∃ r c, ∃ h : r < bs.length, c < 8 ∧ bs[r].getLsbD (7 - c) = true ∧ p = placePixel wrap (x0 + c) (py + r) := by
  induction bs generalizing py with
  | nil => simp [spritePositions]
  | cons b bs ih =>
    simp only [spritePositions, rowPositions, List.mem_append, List.mem_map, List.mem_filter, List.mem_range, ih]
    constructor
    · rintro (⟨c, ⟨hc, hb⟩, rfl⟩ | ⟨r, c, h, hc, hb, rfl⟩)
      · exact ⟨0, c, by simp, hc, by simpa using hb, rfl⟩
      · exact ⟨r + 1, c, by simpa using h, hc, by simpa using hb, by rw [Nat.add_assoc, Nat.add_comm 1]⟩
    · rintro ⟨r, c, h, hc, hb, rfl⟩
      cases r with
      | zero => exact .inl ⟨c, ⟨hc, by simpa using hb⟩, rfl⟩
      | succ r => exact .inr ⟨r, c, by simpa using h, hc, by simpa using hb, by rw [Nat.add_assoc, Nat.add_comm 1]⟩

/-- Two bits of a sprite of at most 32 rows land on different positions (R133). -/
theorem placePixel_inj {wrap : Bool} {x0 y0 r c r' c' : Nat} (hc : c < 8) (hc' : c' < 8) (hr : r < 32) (hr' : r' < 32)
    (h : placePixel wrap (x0 + c) (y0 + r) = placePixel wrap (x0 + c') (y0 + r')) : c = c' ∧ r = r' := by
  cases wrap <;> simp [placePixel, Config.fbWidth, Config.fbHeight] at h <;> omega

/-- No two lit bits of a sprite of at most 32 rows land on the same position (R133). -/
theorem nodup_spritePositions {wrap : Bool} {x0 py : Nat} {bs : List Byte} (h : bs.length ≤ 32) :
    (spritePositions wrap x0 py bs).Nodup := by
  induction bs generalizing py with
  | nil => simp [spritePositions]
  | cons b bs ih =>
    simp only [List.length_cons] at h
    refine List.nodup_append.mpr ⟨?_, ih (by omega), fun p hp q hq => ?_⟩
    · refine List.Nodup.map_on (fun c hc c' hc' e => ?_) (List.nodup_range.filter _)
      simp only [List.mem_filter, List.mem_range] at hc hc'
      exact (placePixel_inj (r := 0) (r' := 0) hc.1 hc'.1 (by omega) (by omega) e).1
    · rintro rfl
      simp only [rowPositions, List.mem_map, List.mem_filter, List.mem_range] at hp
      obtain ⟨c, ⟨hc, -⟩, rfl⟩ := hp
      obtain ⟨r, c', hr, hc', -, e⟩ := mem_spritePositions.mp hq
      rw [Nat.add_assoc] at e
      have := (placePixel_inj (y0 := py) (r := 0) (r' := 1 + r) hc hc' (by omega) (by omega) e).2
      omega

/-- One pixel after one toggle. -/
theorem togglePixel_pixel (px py : Nat) (d : Drawing) (r : Fin 32) (c : Fin 64) :
    (togglePixel px py d).fb[r.val].getLsbD c.val =
      (d.fb[r.val].getLsbD c.val ^^ decide ((c.val, r.val) = (px, py))) := by
  unfold togglePixel
  split
  · rename_i h
    by_cases hr : py = r.val
    · subst hr
      simp [Vector.getElem_set_self, eq_comm]
    · simp [Vector.getElem_set_ne _ _ hr, Ne.symm hr]
  · rename_i h
    have : ¬ (c.val = px ∧ r.val = py) := by rintro ⟨rfl, rfl⟩; exact h ⟨c.isLt, r.isLt⟩
    simp [this]

/-- Collision after one toggle. -/
theorem togglePixel_collision (px py : Nat) (d : Drawing) :
    (togglePixel px py d).collision = true ↔
      d.collision = true ∨ ∃ (r : Fin 32) (c : Fin 64), (c.val, r.val) = (px, py) ∧ d.fb[r.val].getLsbD c.val = true := by
  unfold togglePixel
  split
  · rename_i h
    simp only [Bool.or_eq_true]
    refine or_congr_right ⟨fun e => ⟨⟨py, h.2⟩, ⟨px, h.1⟩, rfl, e⟩, ?_⟩
    rintro ⟨r, c, e, hl⟩
    simp only [Prod.mk.injEq] at e
    obtain ⟨rfl, rfl⟩ := e
    exact hl
  · rename_i h
    refine ⟨.inl, ?_⟩
    rintro (e | ⟨r, c, e, -⟩)
    · exact e
    · simp only [Prod.mk.injEq] at e
      obtain ⟨rfl, rfl⟩ := e
      exact absurd ⟨c.isLt, r.isLt⟩ h

/-- One pixel after distinct positions were toggled. -/
theorem toggleAll_pixel {ps : List (Nat × Nat)} (hn : ps.Nodup) (d : Drawing) (r : Fin 32) (c : Fin 64) :
    (toggleAll ps d).fb[r.val].getLsbD c.val =
      (d.fb[r.val].getLsbD c.val ^^ decide ((c.val, r.val) ∈ ps)) := by
  induction ps generalizing d with
  | nil => simp [toggleAll]
  | cons p ps ih =>
    obtain ⟨hp, hn⟩ := List.nodup_cons.mp hn
    have := ih hn (togglePixel p.1 p.2 d)
    simp only [toggleAll, List.foldl_cons] at this ⊢
    rw [this, togglePixel_pixel]
    by_cases e : (c.val, r.val) = p
    · subst e; simp [hp]
    · simp [e]

/-- Collision after distinct positions were toggled: one of them was lit before (R133). -/
theorem toggleAll_collision {ps : List (Nat × Nat)} (hn : ps.Nodup) (d : Drawing) :
    (toggleAll ps d).collision = true ↔
      d.collision = true ∨ ∃ (r : Fin 32) (c : Fin 64), (c.val, r.val) ∈ ps ∧ d.fb[r.val].getLsbD c.val = true := by
  induction ps generalizing d with
  | nil => simp [toggleAll]
  | cons p ps ih =>
    obtain ⟨hp, hn⟩ := List.nodup_cons.mp hn
    have := ih hn (togglePixel p.1 p.2 d)
    simp only [toggleAll, List.foldl_cons] at this ⊢
    rw [this, togglePixel_collision, or_assoc]
    refine or_congr_right ⟨?_, ?_⟩
    · rintro (⟨r, c, e, hl⟩ | ⟨r, c, hm, hl⟩)
      · exact ⟨r, c, by simp [e], hl⟩
      · have e : (c.val, r.val) ≠ p := fun e => hp (e ▸ hm)
        rw [togglePixel_pixel] at hl
        exact ⟨r, c, by simp [hm], by simpa [e] using hl⟩
    · rintro ⟨r, c, hm, hl⟩
      by_cases e : (c.val, r.val) = p
      · exact .inl ⟨r, c, by simpa using e, hl⟩
      · refine .inr ⟨r, c, by simpa [e] using hm, ?_⟩
        rw [togglePixel_pixel]
        simpa [e] using hl

end Sys2Proof.Machine
end

