-- ==== Sys2Proof/Laws/IndexMemory.lean ====
section
/-! SUPPORT. What `LD [I], Vx` and `LD Vx, [I]` move (R174, R175). -/

namespace Sys2Proof.Machine

@[simp] theorem State.length_regsUpTo (s : State) (x : Reg) : (s.regsUpTo x).length = x.val + 1 := by
  simp [State.regsUpTo]

/-- The j-th byte stored is V[j]. -/
theorem State.getD_regsUpTo (s : State) (x r : Reg) (h : r ≤ x) (d : Byte) : (s.regsUpTo x).getD r.val d = s.reg r := by
  have hl : r.val < (s.regsUpTo x).length := by simp; omega
  rw [List.getD_eq_getElem _ _ hl]
  simp [State.regsUpTo, State.reg]

/-- A register after a load: the byte of its address, or what it was above x. -/
theorem State.getElem_regsFromMemory (s : State) (x r : Reg) :
    (s.regsFromMemory x)[r.val] = if r ≤ x then s.readByte (s.i.toNat + r.val) else s.reg r := by
  unfold State.regsFromMemory
  rw [Vector.getElem_ofFn]
  rfl

/-- I after a load or store, as a number, when the addresses were in memory. -/
theorem State.nextI_toNat (s : State) (x : Reg) (h : s.i.toNat + x.val ≤ 0xFFF) :
    (s.nextI x).toNat = if s.quirks.loadStoreIncrementsI then s.i.toNat + x.val + 1 else s.i.toNat := by
  unfold State.nextI
  split
  · simp; omega
  · rfl

end Sys2Proof.Machine
end

