-- ==== Sys2Proof/Laws/PerInstr.lean ====
section
/-! SUPPORT. Laws stated of every instruction as syntax, one lemma per constructor. RowMatch: an instruction's encoding is a word of
its own row of the opcode table (R76). -/

namespace Sys2Proof.Laws

/-- The instruction's word matches the row of the table that bears its mnemonic (R76). -/
def RowMatch.Statement (i : Instr) : Prop :=
  ∃ r ∈ opcodeTable, r.mnemonic = i.mnemonic ∧ r.matches (encode i) = true

theorem RowMatch.cls : RowMatch.Statement .cls :=
  ⟨⟨"CLS", 0x00E0, 0xFFFF⟩, by decide, rfl, by decide⟩

theorem RowMatch.ret : RowMatch.Statement .ret :=
  ⟨⟨"RET", 0x00EE, 0xFFFF⟩, by decide, rfl, by decide⟩

theorem RowMatch.jp (x : Word) : RowMatch.Statement (.jp x) :=
  ⟨⟨"JP_addr", 0x1000, 0xF000⟩, by decide, rfl, row_matches ((formatNNN_and_F000 ..).trans (by decide))⟩

theorem RowMatch.call (x : Word) : RowMatch.Statement (.call x) :=
  ⟨⟨"CALL_addr", 0x2000, 0xF000⟩, by decide, rfl, row_matches ((formatNNN_and_F000 ..).trans (by decide))⟩

theorem RowMatch.seByte (x : Reg) (y : Byte) : RowMatch.Statement (.seByte x y) :=
  ⟨⟨"SE_Vx__byte", 0x3000, 0xF000⟩, by decide, rfl, row_matches ((formatXKK_and_F000 ..).trans (by decide))⟩

theorem RowMatch.sneByte (x : Reg) (y : Byte) : RowMatch.Statement (.sneByte x y) :=
  ⟨⟨"SNE_Vx__byte", 0x4000, 0xF000⟩, by decide, rfl, row_matches ((formatXKK_and_F000 ..).trans (by decide))⟩

theorem RowMatch.seReg (x y : Reg) : RowMatch.Statement (.seReg x y) :=
  ⟨⟨"SE_Vx__Vy", 0x5000, 0xF00F⟩, by decide, rfl, row_matches ((formatXYN_and_F00F ..).trans (by decide))⟩

theorem RowMatch.ldByte (x : Reg) (y : Byte) : RowMatch.Statement (.ldByte x y) :=
  ⟨⟨"LD_Vx__byte", 0x6000, 0xF000⟩, by decide, rfl, row_matches ((formatXKK_and_F000 ..).trans (by decide))⟩

theorem RowMatch.addByte (x : Reg) (y : Byte) : RowMatch.Statement (.addByte x y) :=
  ⟨⟨"ADD_Vx__byte", 0x7000, 0xF000⟩, by decide, rfl, row_matches ((formatXKK_and_F000 ..).trans (by decide))⟩

theorem RowMatch.ldReg (x y : Reg) : RowMatch.Statement (.ldReg x y) :=
  ⟨⟨"LD_Vx__Vy", 0x8000, 0xF00F⟩, by decide, rfl, row_matches ((formatXYN_and_F00F ..).trans (by decide))⟩

theorem RowMatch.orReg (x y : Reg) : RowMatch.Statement (.orReg x y) :=
  ⟨⟨"OR_Vx__Vy", 0x8001, 0xF00F⟩, by decide, rfl, row_matches ((formatXYN_and_F00F ..).trans (by decide))⟩

theorem RowMatch.andReg (x y : Reg) : RowMatch.Statement (.andReg x y) :=
  ⟨⟨"AND_Vx__Vy", 0x8002, 0xF00F⟩, by decide, rfl, row_matches ((formatXYN_and_F00F ..).trans (by decide))⟩

theorem RowMatch.xorReg (x y : Reg) : RowMatch.Statement (.xorReg x y) :=
  ⟨⟨"XOR_Vx__Vy", 0x8003, 0xF00F⟩, by decide, rfl, row_matches ((formatXYN_and_F00F ..).trans (by decide))⟩

theorem RowMatch.addReg (x y : Reg) : RowMatch.Statement (.addReg x y) :=
  ⟨⟨"ADD_Vx__Vy", 0x8004, 0xF00F⟩, by decide, rfl, row_matches ((formatXYN_and_F00F ..).trans (by decide))⟩

theorem RowMatch.subReg (x y : Reg) : RowMatch.Statement (.subReg x y) :=
  ⟨⟨"SUB_Vx__Vy", 0x8005, 0xF00F⟩, by decide, rfl, row_matches ((formatXYN_and_F00F ..).trans (by decide))⟩

theorem RowMatch.shr (x y : Reg) : RowMatch.Statement (.shr x y) :=
  ⟨⟨"SHR_Vx__Vy", 0x8006, 0xF00F⟩, by decide, rfl, row_matches ((formatXYN_and_F00F ..).trans (by decide))⟩

theorem RowMatch.subn (x y : Reg) : RowMatch.Statement (.subn x y) :=
  ⟨⟨"SUBN_Vx__Vy", 0x8007, 0xF00F⟩, by decide, rfl, row_matches ((formatXYN_and_F00F ..).trans (by decide))⟩

theorem RowMatch.shl (x y : Reg) : RowMatch.Statement (.shl x y) :=
  ⟨⟨"SHL_Vx__Vy", 0x800E, 0xF00F⟩, by decide, rfl, row_matches ((formatXYN_and_F00F ..).trans (by decide))⟩

theorem RowMatch.sneReg (x y : Reg) : RowMatch.Statement (.sneReg x y) :=
  ⟨⟨"SNE_Vx__Vy", 0x9000, 0xF00F⟩, by decide, rfl, row_matches ((formatXYN_and_F00F ..).trans (by decide))⟩

theorem RowMatch.ldI (x : Word) : RowMatch.Statement (.ldI x) :=
  ⟨⟨"LD_I__addr", 0xA000, 0xF000⟩, by decide, rfl, row_matches ((formatNNN_and_F000 ..).trans (by decide))⟩

theorem RowMatch.jpV0 (x : Word) : RowMatch.Statement (.jpV0 x) :=
  ⟨⟨"JP_V0__addr", 0xB000, 0xF000⟩, by decide, rfl, row_matches ((formatNNN_and_F000 ..).trans (by decide))⟩

theorem RowMatch.rnd (x : Reg) (y : Byte) : RowMatch.Statement (.rnd x y) :=
  ⟨⟨"RND_Vx__byte", 0xC000, 0xF000⟩, by decide, rfl, row_matches ((formatXKK_and_F000 ..).trans (by decide))⟩

theorem RowMatch.drw (x y : Reg) (n : Fin 16) : RowMatch.Statement (.drw x y n) :=
  ⟨⟨"DRW_Vx__Vy__n", 0xD000, 0xF000⟩, by decide, rfl, row_matches ((formatXYN_and_F000 ..).trans (by decide))⟩

theorem RowMatch.skp (x : Reg) : RowMatch.Statement (.skp x) :=
  ⟨⟨"SKP_Vx", 0xE09E, 0xF0FF⟩, by decide, rfl, row_matches ((formatXFF_and_F0FF ..).trans (by decide))⟩

theorem RowMatch.sknp (x : Reg) : RowMatch.Statement (.sknp x) :=
  ⟨⟨"SKNP_Vx", 0xE0A1, 0xF0FF⟩, by decide, rfl, row_matches ((formatXFF_and_F0FF ..).trans (by decide))⟩

theorem RowMatch.ldVxDt (x : Reg) : RowMatch.Statement (.ldVxDt x) :=
  ⟨⟨"LD_Vx__DT", 0xF007, 0xF0FF⟩, by decide, rfl, row_matches ((formatXFF_and_F0FF ..).trans (by decide))⟩

theorem RowMatch.ldVxK (x : Reg) : RowMatch.Statement (.ldVxK x) :=
  ⟨⟨"LD_Vx__K", 0xF00A, 0xF0FF⟩, by decide, rfl, row_matches ((formatXFF_and_F0FF ..).trans (by decide))⟩

theorem RowMatch.ldDtVx (x : Reg) : RowMatch.Statement (.ldDtVx x) :=
  ⟨⟨"LD_DT__Vx", 0xF015, 0xF0FF⟩, by decide, rfl, row_matches ((formatXFF_and_F0FF ..).trans (by decide))⟩

theorem RowMatch.ldStVx (x : Reg) : RowMatch.Statement (.ldStVx x) :=
  ⟨⟨"LD_ST__Vx", 0xF018, 0xF0FF⟩, by decide, rfl, row_matches ((formatXFF_and_F0FF ..).trans (by decide))⟩

theorem RowMatch.addI (x : Reg) : RowMatch.Statement (.addI x) :=
  ⟨⟨"ADD_I__Vx", 0xF01E, 0xF0FF⟩, by decide, rfl, row_matches ((formatXFF_and_F0FF ..).trans (by decide))⟩

theorem RowMatch.ldF (x : Reg) : RowMatch.Statement (.ldF x) :=
  ⟨⟨"LD_F__Vx", 0xF029, 0xF0FF⟩, by decide, rfl, row_matches ((formatXFF_and_F0FF ..).trans (by decide))⟩

theorem RowMatch.ldB (x : Reg) : RowMatch.Statement (.ldB x) :=
  ⟨⟨"LD_B__Vx", 0xF033, 0xF0FF⟩, by decide, rfl, row_matches ((formatXFF_and_F0FF ..).trans (by decide))⟩

theorem RowMatch.storeRegs (x : Reg) : RowMatch.Statement (.storeRegs x) :=
  ⟨⟨"LD__I___Vx", 0xF055, 0xF0FF⟩, by decide, rfl, row_matches ((formatXFF_and_F0FF ..).trans (by decide))⟩

theorem RowMatch.loadRegs (x : Reg) : RowMatch.Statement (.loadRegs x) :=
  ⟨⟨"LD_Vx___I", 0xF065, 0xF0FF⟩, by decide, rfl, row_matches ((formatXFF_and_F0FF ..).trans (by decide))⟩

end Sys2Proof.Laws
end

