-- ==== Sys2Proof/Laws/Step.lean ====
section
/-! SUPPORT. What a step can do, said once (R70), and what a poll of the key-wait can do (R164). -/

namespace Sys2Proof.Machine

/-- A step is one of four things: nothing in mode Faulted, a poll in mode Blocked, a fault of fetch or decode, or the fetched
instruction (R70). -/
theorem step_cases {s t : State} (h : step s = .next t) :
    (∃ f, s.mode = .faulted f ∧ t = s) ∨
    (∃ x prev, s.mode = .blocked x prev ∧ t = keyWaitPoll x prev s) ∨
    (∃ f, s.mode = .running ∧ fetchDecode s = .error f ∧ t = s.setMode (.faulted f)) ∨
    (∃ i, s.AboutToRun i ∧ exec i s = .next t) := by
  unfold step at h
  split at h
  · rename_i f hm
    exact .inl ⟨f, hm, by simpa [stepFaulted, eq_comm] using h⟩
  · rename_i x prev hm
    exact .inr (.inl ⟨x, prev, hm, by simpa [eq_comm] using h⟩)
  · rename_i hm
    split at h
    · rename_i f hf
      exact .inr (.inr (.inl ⟨f, hm, hf, by simpa [eq_comm] using h⟩))
    · rename_i i hi
      refine .inr (.inr (.inr ⟨i, ⟨hm, ?_⟩, h⟩))
      rcases Nat.lt_or_ge 0xFFE s.pc.toNat with hp | hp
      · simp [fetchDecode_of_gt hp] at hi
      · refine ⟨hp, decodeWord_eq_ok.mpr ?_⟩
        rw [fetchDecode_of_le hp] at hi
        split at hi
        · simp_all [State.wordAt]
        · cases hi

/-- What a fault of fetch or decode is (R53, R84). -/
theorem fetchDecode_error {s : State} {f : FaultRecord} (h : fetchDecode s = .error f) :
    (0xFFE < s.pc.toNat ∧ f = .outOfBoundsAccess s.pc (if s.pc.toNat > 0xFFF then s.pc.toNat else 0x1000)) ∨
    (s.pc.toNat ≤ 0xFFE ∧ decodeOp (s.wordAt s.pc.toNat) = none ∧ f = .unknownInstruction s.pc (s.wordAt s.pc.toNat)) := by
  rcases Nat.lt_or_ge 0xFFE s.pc.toNat with hp | hp
  · rw [fetchDecode_of_gt hp] at h
    exact .inl ⟨hp, by simpa [eq_comm] using h⟩
  · rw [fetchDecode_of_le hp] at h
    split at h
    · cases h
    · exact .inr ⟨hp, ‹_›, by simpa [State.wordAt, eq_comm] using h⟩

/-- A poll either keeps waiting, with the keypad just seen, or takes the lowest new key (R164, R165). -/
theorem keyWaitPoll_cases (x : Reg) (prev : Keypad) (s : State) :
    (lowestNewKey s.keys prev = none ∧ keyWaitPoll x prev s = s.setMode (.blocked x s.keys)) ∨
    (∃ k, lowestNewKey s.keys prev = some k ∧
      keyWaitPoll x prev s = (s.advance.setReg x (BitVec.ofNat 8 k)).setMode .running) := by
  unfold keyWaitPoll
  cases h : lowestNewKey s.keys prev with
  | none => exact .inl ⟨rfl, rfl⟩
  | some k => exact .inr ⟨k, rfl, rfl⟩

/-- What the machine is about to run is what fetch and decode answer. -/
theorem fetchDecode_of_aboutToRun {s : State} {i : Instr} (h : s.AboutToRun i) : fetchDecode s = .ok i := by
  rw [fetchDecode_of_le h.2.1]
  have := decodeWord_eq_ok.mp h.2.2
  simp only [State.wordAt] at this
  rw [this]

/-! ### Runs -/

@[simp] theorem State.observedAfter_zero (s t : State) : s.ObservedAfter 0 t ↔ t = s := by
  constructor
  · rintro h
    cases h
    rfl
  · rintro rfl
    rfl

/-- A run of `k + 1` steps is a step and then a run of `k`. -/
theorem State.observedAfter_succ (s t : State) (k : Nat) :
    s.ObservedAfter (k + 1) t ↔ ∃ u, step s = .next u ∧ u.ObservedAfter k t := by
  have e : core.step s = step s := rfl
  simp only [State.ObservedAfter, Host.Core.run, e]
  cases step s <;> simp

/-- A state that a step leaves as it is is what every run from it ends in. -/
theorem State.observedAfter_of_fixed {s : State} (h : step s = .next s) (k : Nat) : s.ObservedAfter k s := by
  induction k with
  | zero => simp
  | succ k ih => exact (State.observedAfter_succ ..).mpr ⟨s, h, ih⟩

end Sys2Proof.Machine
end

