-- ==== Sys2Proof/Tests/Slice0.lean ====
section
/-! SUPPORT. The model's own tests. Expected values come from the patterns of 30_encoding.md rule R76 and from the vectors of
95_test_vectors.md, whose names stand in the docstrings. Then, for every statement with hypotheses, a state and operands that meet
them together, at boundary values. -/

namespace Sys2Proof.Tests

open Sys2Proof.Machine

/-! ### Well-formedness: an ill-formed term for each check -/

theorem test_wf_refuses_jp : Instr.wellFormed (.jp 0x1000#16) = false := by decide
theorem test_wf_refuses_call : Instr.wellFormed (.call 0x1000#16) = false := by decide
theorem test_wf_refuses_ldI : Instr.wellFormed (.ldI 0xFFFF#16) = false := by decide
theorem test_wf_refuses_jpV0 : Instr.wellFormed (.jpV0 0x1000#16) = false := by decide

/-! ### Decoding: one word of every row, written out from its pattern (R76) -/

theorem test_decode_cls : decodeWord 0x00E0#16 = .ok .cls := by decide
theorem test_decode_ret : decodeWord 0x00EE#16 = .ok .ret := by decide
theorem test_decode_jp : decodeWord 0x1ABC#16 = .ok (.jp 0xABC#16) := by decide
theorem test_decode_call : decodeWord 0x2ABC#16 = .ok (.call 0xABC#16) := by decide
theorem test_decode_seByte : decodeWord 0x35A7#16 = .ok (.seByte 0x5 0xA7#8) := by decide
theorem test_decode_sneByte : decodeWord 0x45A7#16 = .ok (.sneByte 0x5 0xA7#8) := by decide
theorem test_decode_seReg : decodeWord 0x55A0#16 = .ok (.seReg 0x5 0xA) := by decide
theorem test_decode_ldByte : decodeWord 0x6A2B#16 = .ok (.ldByte 0xA 0x2B#8) := by decide
theorem test_decode_addByte : decodeWord 0x7302#16 = .ok (.addByte 0x3 0x02#8) := by decide
theorem test_decode_ldReg : decodeWord 0x8120#16 = .ok (.ldReg 0x1 0x2) := by decide
theorem test_decode_orReg : decodeWord 0x8231#16 = .ok (.orReg 0x2 0x3) := by decide
theorem test_decode_andReg : decodeWord 0x8232#16 = .ok (.andReg 0x2 0x3) := by decide
theorem test_decode_xorReg : decodeWord 0x8F33#16 = .ok (.xorReg 0xF 0x3) := by decide
theorem test_decode_addReg : decodeWord 0x80F4#16 = .ok (.addReg 0x0 0xF) := by decide
theorem test_decode_subReg : decodeWord 0x8F15#16 = .ok (.subReg 0xF 0x1) := by decide
theorem test_decode_shr : decodeWord 0x8126#16 = .ok (.shr 0x1 0x2) := by decide
theorem test_decode_subn : decodeWord 0x8127#16 = .ok (.subn 0x1 0x2) := by decide
theorem test_decode_shl : decodeWord 0x812E#16 = .ok (.shl 0x1 0x2) := by decide
theorem test_decode_sneReg : decodeWord 0x9120#16 = .ok (.sneReg 0x1 0x2) := by decide
theorem test_decode_ldI : decodeWord 0xA300#16 = .ok (.ldI 0x300#16) := by decide
theorem test_decode_jpV0 : decodeWord 0xB300#16 = .ok (.jpV0 0x300#16) := by decide
theorem test_decode_rnd : decodeWord 0xC30F#16 = .ok (.rnd 0x3 0x0F#8) := by decide
theorem test_decode_drw : decodeWord 0xD125#16 = .ok (.drw 0x1 0x2 5) := by decide
theorem test_decode_skp : decodeWord 0xE49E#16 = .ok (.skp 0x4) := by decide
theorem test_decode_sknp : decodeWord 0xE4A1#16 = .ok (.sknp 0x4) := by decide
theorem test_decode_ldVxDt : decodeWord 0xF507#16 = .ok (.ldVxDt 0x5) := by decide
theorem test_decode_ldVxK : decodeWord 0xF30A#16 = .ok (.ldVxK 0x3) := by decide
theorem test_decode_ldDtVx : decodeWord 0xF115#16 = .ok (.ldDtVx 0x1) := by decide
theorem test_decode_ldStVx : decodeWord 0xF118#16 = .ok (.ldStVx 0x1) := by decide
theorem test_decode_addI : decodeWord 0xF21E#16 = .ok (.addI 0x2) := by decide
theorem test_decode_ldF : decodeWord 0xF229#16 = .ok (.ldF 0x2) := by decide
theorem test_decode_ldB : decodeWord 0xF233#16 = .ok (.ldB 0x2) := by decide
theorem test_decode_storeRegs : decodeWord 0xF155#16 = .ok (.storeRegs 0x1) := by decide
theorem test_decode_loadRegs : decodeWord 0xF265#16 = .ok (.loadRegs 0x2) := by decide

/-- DEC-4: ten words that are no instruction. -/
theorem test_decode_refuses : ([0x0123#16, 0x0000#16, 0x00FF#16, 0x5121#16, 0x8008#16, 0x800F#16, 0x9121#16, 0xE4A2#16, 0xF075#16,
    0xF000#16].all fun w => decodeOp w == none) = true := by decide

/-- Two bytes, the high one first (R52); one byte is too few (R88). -/
theorem test_decode_bytes : decodeBytes [0xA3#8, 0x00#8, 0x77#8] = .ok (.ldI 0x300#16, [0x77#8]) ∧
    decodeBytes [0xA3#8] = .error .truncated := by decide

theorem test_decode_table_word : decodeTableWord 16 0x8126 = some (.shr 0x1 0x2) ∧ decodeTableWord 16 0x5121 = none := by decide

/-! ### Helpers -/

/-- The reset state with the word `w` at `a` and `PC = a`. -/
def startAt (a w : Word) : State :=
  { State.reset with pc := a, mem := Memory.writeBytes [] a.toNat [highByte w, lowByte w] }

/-- The reset state with the word `w` at 0x300, where section 2 of the vectors places it. -/
def start (w : Word) : State := startAt 0x300#16 w

/-- The state with one more byte of memory. -/
def withByte (s : State) (a : Nat) (b : Byte) : State := s.setMem (Memory.write s.mem a b)

/-- The state with the pixel (`r`, `c`) of a dark screen lit. -/
def withPixel (s : State) (r : Fin 32) (c : Nat) : State := s.setFb (s.fb.set r.val (BitVec.twoPow 64 c))

/-- V[i] = i for every i. -/
def countingRegs : Vector Byte 16 := Vector.ofFn fun i => BitVec.ofNat 8 i.val

/-- One step leads to a state with the property. -/
def ran (s : State) (p : State → Bool) : Bool :=
  match step s with
  | .next t => p t
  | .fault _ => false
  | .refused _ => false

/-- The outcome is exactly this next state. -/
def answers (o : Host.Outcome State Fault Refusal) (t : State) : Bool :=
  match o with
  | .next u => u == t
  | .fault _ => false
  | .refused _ => false

theorem eq_of_answers {o : Host.Outcome State Fault Refusal} {t : State} (h : answers o t = true) : o = .next t := by
  unfold answers at h
  split at h
  · rw [beq_iff_eq.mp h]
  · cases h
  · cases h

/-- One step leads to exactly this state. -/
def goesTo (s t : State) : Bool := answers (step s) t

/-- One step takes the fault and changes nothing else (R204). -/
def faults (s : State) (f : FaultRecord) : Bool := goesTo s { s with mode := .faulted f }

/-! ### Register loads, arithmetic, logic, shifts and random -/

/-- LD-1 -/
theorem test_ldByte : ran (start 0x6A2B#16) (fun t => t.reg 0xA == 0x2B#8 && t.pc == 0x302#16) = true := by decide
/-- ADDB-1: no flag -/
theorem test_addByte : ran (((start 0x7302#16).setReg 3 0xFF#8).setReg VF 0x07#8)
    (fun t => t.reg 3 == 0x01#8 && t.reg VF == 0x07#8) = true := by decide
/-- ADDB-2: x = F -/
theorem test_addByte_vf : ran ((start 0x7F01#16).setReg VF 0xFF#8) (fun t => t.reg VF == 0x00#8) = true := by decide
/-- MOV-1 -/
theorem test_ldReg : ran ((start 0x8010#16).setReg 1 0x44#8) (fun t => t.reg 0 == 0x44#8 && t.reg 1 == 0x44#8) = true := by decide
/-- The start of OR-1 and OR-2 -/
def orStart : State := (((start 0x8231#16).setReg 2 0x0F#8).setReg 3 0xF0#8).setReg VF 0x01#8
/-- OR-1 -/
theorem test_orReg : ran orStart (fun t => t.reg 2 == 0xFF#8 && t.reg VF == 0x00#8) = true := by decide
/-- OR-2 -/
theorem test_orReg_keeps_vf : ran { orStart with quirks := { defaultQuirks with logicResetsVf := false } }
    (fun t => t.reg 2 == 0xFF#8 && t.reg VF == 0x01#8) = true := by decide
/-- AND-1 -/
theorem test_andReg : ran (((start 0x8232#16).setReg 2 0x3C#8).setReg 3 0x0F#8)
    (fun t => t.reg 2 == 0x0C#8 && t.reg VF == 0x00#8) = true := by decide
/-- XOR-1 -/
theorem test_xorReg : ran (((start 0x8223#16).setReg 2 0x5A#8).setReg VF 0x01#8)
    (fun t => t.reg 2 == 0x00#8 && t.reg VF == 0x00#8) = true := by decide
/-- XOR-2: x = F -/
theorem test_xorReg_vf : ran (((start 0x8F33#16).setReg VF 0xFF#8).setReg 3 0x0F#8) (fun t => t.reg VF == 0x00#8) = true := by decide
/-- S1, ADD-1 -/
theorem test_addReg : ran (((start 0x8014#16).setReg 0 0xFF#8).setReg 1 0x01#8)
    (fun t => t.reg 0 == 0x00#8 && t.reg VF == 0x01#8) = true := by decide
/-- ADD-5: y = F -/
theorem test_addReg_vf : ran (((start 0x80F4#16).setReg 0 0x10#8).setReg VF 0x01#8)
    (fun t => t.reg 0 == 0x11#8 && t.reg VF == 0x00#8) = true := by decide
/-- S2, SUB-1 -/
theorem test_subReg : ran (((start 0x8015#16).setReg 0 0x01#8).setReg 1 0x02#8)
    (fun t => t.reg 0 == 0xFF#8 && t.reg VF == 0x00#8) = true := by decide
/-- SUB-3: x = F -/
theorem test_subReg_vf : ran (((start 0x8F15#16).setReg VF 0x10#8).setReg 1 0x01#8) (fun t => t.reg VF == 0x01#8) = true := by decide
/-- SUBN-1 -/
theorem test_subn : ran (((start 0x8017#16).setReg 0 0x05#8).setReg 1 0x03#8)
    (fun t => t.reg 0 == 0xFE#8 && t.reg VF == 0x00#8) = true := by decide
/-- SUBN-2 -/
theorem test_subn_no_borrow : ran (((start 0x8017#16).setReg 0 0x03#8).setReg 1 0x05#8)
    (fun t => t.reg 0 == 0x02#8 && t.reg VF == 0x01#8) = true := by decide
/-- SHR-1 -/
theorem test_shr : ran ((start 0x8126#16).setReg 2 0x05#8)
    (fun t => t.reg 1 == 0x02#8 && t.reg 2 == 0x05#8 && t.reg VF == 0x01#8) = true := by decide
/-- SHR-2: the source is Vx -/
theorem test_shr_vx : ran { ((start 0x8126#16).setReg 1 0x04#8).setReg 2 0x05#8 with
    quirks := { defaultQuirks with shiftUsesVy := false } } (fun t => t.reg 1 == 0x02#8 && t.reg VF == 0x00#8) = true := by decide
/-- SHL-1 -/
theorem test_shl : ran ((start 0x812E#16).setReg 2 0x81#8) (fun t => t.reg 1 == 0x02#8 && t.reg VF == 0x01#8) = true := by decide
/-- SHL-3: x = F -/
theorem test_shl_vf : ran ((start 0x8F2E#16).setReg 2 0x80#8) (fun t => t.reg VF == 0x01#8) = true := by decide
/-- RND-1: with the draw 0xA7 -/
theorem test_rnd_drawn : (randomMasked 0xA7#8 3 0x0F#8 (start 0xC30F#16)).reg 3 = 0x07#8 := by decide
/-- RND-2: any draw masked by 0x00 -/
theorem test_rnd_masked (r : Byte) : (randomMasked r 3 0x00#8 (start 0xC300#16)).reg 3 = 0x00#8 := by simp [randomMasked]

/-! ### Clear and draw -/

/-- CLS-1 -/
theorem test_cls : ran (withPixel (withPixel (start 0x00E0#16) 0 0) 31 63)
    (fun t => t.fb == Vector.replicate 32 0#64) = true := by decide
/-- DRW-1: the glyph of 0 in the upper left corner; DRW-9: a collision erases the pixel -/
theorem test_drw : ran ((start 0xD015#16).setI 0x050#16)
    (fun t => t.fb == ((((State.reset.fb.set 0 0xF#64).set 1 0x9#64).set 2 0x9#64).set 3 0x9#64).set 4 0xF#64 &&
      t.reg VF == 0x00#8) = true ∧
    ran (withPixel (withByte ((((start 0xD011#16).setReg 0 0x45#8).setReg 1 0x23#8).setI 0x400#16) 0x400 0x80#8) 3 5)
      (fun t => t.fb == State.reset.fb && t.reg VF == 0x01#8) = true := by decide
/-- DRW-4: columns past 63 wrap under the quirk (DRW-3 clips them) -/
theorem test_drw_edge :
    let s := withByte ((((start 0xD121#16).setReg 1 0x3E#8).setReg 2 0x20#8).setI 0x400#16) 0x400 0xFF#8
    ran s (fun t => t.fb == State.reset.fb.set 0 0xC000000000000000#64) = true ∧
    ran { s with quirks := { defaultQuirks with drawWrap := true } }
      (fun t => t.fb == State.reset.fb.set 0 0xC00000000000003F#64 && t.reg VF == 0x00#8) = true := by decide
/-! ### Jumps, calls, returns and skips -/

/-- JP-1 -/
theorem test_jp : ran (startAt 0x200#16 0x1234#16) (fun t => t.pc == 0x234#16 && t.sp == 0) = true := by decide
/-- CALL-1 -/
theorem test_call : ran (startAt 0x200#16 0x2300#16)
    (fun t => t.stackAt 0 == 0x202#16 && t.sp == 1 && t.pc == 0x300#16) = true := by decide
/-- CALL-2 -/
theorem test_call_overflow : faults { startAt 0x200#16 0x2300#16 with sp := 16 } (.stackOverflow 0x200#16) = true := by decide
/-- RET-1 -/
theorem test_ret : ran { start 0x00EE#16 with sp := 1, stack := State.reset.stack.set 0 0x202#16 }
    (fun t => t.sp == 0 && t.pc == 0x202#16 && t.stackAt 0 == 0x202#16) = true := by decide
/-- RET-2 -/
theorem test_ret_underflow : faults (start 0x00EE#16) (.stackUnderflow 0x300#16) = true := by decide
/-- JPV0-2: the target is not reduced -/
theorem test_jpV0 : ran ((start 0xBFFF#16).setReg 0 0xFF#8) (fun t => t.pc == 0x10FE#16) = true := by decide
/-- JPV0-3: the offset is V3 -/
theorem test_jpVx : ran { ((start 0xB300#16).setReg 0 0x10#8).setReg 3 0x20#8 with
    quirks := { defaultQuirks with jumpVx := true } } (fun t => t.pc == 0x320#16) = true := by decide
/-- SE-1 and SE-2 -/
theorem test_seByte : ran ((startAt 0x208#16 0x3005#16).setReg 0 0x05#8) (fun t => t.pc == 0x20C#16) = true ∧
    ran ((startAt 0x208#16 0x3005#16).setReg 0 0x04#8) (fun t => t.pc == 0x20A#16) = true := by decide
/-- SNE-1 and SNE-2 -/
theorem test_sneByte : ran (start 0x4101#16) (fun t => t.pc == 0x304#16) = true ∧
    ran ((start 0x4101#16).setReg 1 0x01#8) (fun t => t.pc == 0x302#16) = true := by decide
/-- SEV-1 -/
theorem test_seReg : ran (((start 0x5120#16).setReg 1 0x33#8).setReg 2 0x33#8) (fun t => t.pc == 0x304#16) = true := by decide
/-- SNEV-1 and SNEV-2 -/
theorem test_sneReg : ran (((start 0x9120#16).setReg 1 0x01#8).setReg 2 0x02#8) (fun t => t.pc == 0x304#16) = true ∧
    ran ((start 0x9110#16).setReg 1 0x01#8) (fun t => t.pc == 0x302#16) = true := by decide

/-! ### Keys -/

/-- SKP-2 and SKP-3: the low nibble of 0x1A names key A -/
theorem test_skp : ran ((startAt 0x210#16 0xE49E#16).setReg 4 0x0A#8) (fun t => t.pc == 0x212#16) = true ∧
    ran (((startAt 0x210#16 0xE49E#16).setReg 4 0x1A#8).setKeys 0x0400#16) (fun t => t.pc == 0x214#16) = true := by decide
/-- SKNP-1 and SKNP-2 -/
theorem test_sknp : ran ((startAt 0x210#16 0xE4A1#16).setReg 4 0x0A#8) (fun t => t.pc == 0x214#16) = true ∧
    ran (((startAt 0x210#16 0xE4A1#16).setReg 4 0x0A#8).setKeys 0x0400#16) (fun t => t.pc == 0x212#16) = true := by decide
/-- KW-1, and the first step of KW-3 with key 5 held -/
theorem test_ldVxK : goesTo (startAt 0x200#16 0xF30A#16) { startAt 0x200#16 0xF30A#16 with mode := .blocked 3 0x0000#16 } = true ∧
    ran ((startAt 0x200#16 0xF30A#16).setKeys 0x0020#16) (fun t => t.mode == .blocked 3 0x0020#16 && t.pc == 0x200#16) = true := by decide
/-- The end state of KW-1 -/
def waiting : State := { startAt 0x200#16 0xF30A#16 with mode := .blocked 3 0x0000#16 }
/-- KW-4 and KW-2 -/
theorem test_keyWaitPoll : ran (waiting.setKeys 0x0204#16)
    (fun t => t.reg 3 == 0x02#8 && t.pc == 0x202#16 && t.mode == .running) = true ∧ goesTo waiting waiting = true := by decide

/-! ### Index register, font, BCD, loads and stores -/

/-- LDI-1 -/
theorem test_ldI : ran (start 0xA300#16) (fun t => t.i == 0x0300#16) = true := by decide
/-- ADDI-3 -/
theorem test_addI_wraps : ran (((start 0xF21E#16).setI 0xFFFF#16).setReg 2 0x01#8) (fun t => t.i == 0x0000#16) = true := by decide
/-- ADDI-2 and ADDI-4: the flag only under the quirk -/
theorem test_addI_flag :
    let s := (((start 0xF21E#16).setI 0x0FFF#16).setReg 2 0x01#8).setReg VF 0x07#8
    ran s (fun t => t.i == 0x1000#16 && t.reg VF == 0x07#8) = true ∧
    ran { s with quirks := { defaultQuirks with addIFlag := true } } (fun t => t.i == 0x1000#16 && t.reg VF == 0x01#8) = true := by decide
/-- LDF-1 and LDF-2 -/
theorem test_ldF : ran ((start 0xF029#16).setReg 0 0x05#8) (fun t => t.i == 0x069#16) = true ∧
    ran ((start 0xF029#16).setReg 0 0x1A#8) (fun t => t.i == 0x082#16) = true := by decide
/-- BCD-1 -/
theorem test_ldB : ran (((start 0xF033#16).setReg 0 0xFE#8).setI 0x400#16)
    (fun t => t.readByte 0x400 == 0x02#8 && t.readByte 0x401 == 0x05#8 && t.readByte 0x402 == 0x04#8 && t.i == 0x400#16) = true := by decide
/-- BCD-5 and BCD-6: the protection of the low memory -/
theorem test_ldB_low :
    let s := ((start 0xF033#16).setReg 0 123#8).setI 0x1FF#16
    faults s (.outOfBoundsAccess 0x300#16 0x1FF) = true ∧
    ran { s with quirks := { defaultQuirks with protectLowMemory := false } }
      (fun t => t.readByte 0x1FF == 0x01#8 && t.readByte 0x200 == 0x02#8 && t.readByte 0x201 == 0x03#8) = true := by decide
/-- ST-1 and ST-2: the increment of I -/
theorem test_storeRegs :
    let s := (((start 0xF155#16).setReg 0 0x11#8).setReg 1 0x22#8).setI 0x400#16
    ran s (fun t => t.readByte 0x400 == 0x11#8 && t.readByte 0x401 == 0x22#8 && t.i == 0x402#16) = true ∧
    ran { s with quirks := { defaultQuirks with loadStoreIncrementsI := false } }
      (fun t => t.readByte 0x401 == 0x22#8 && t.i == 0x400#16) = true := by decide
/-- ST-3 and ST-4: the end of memory -/
theorem test_storeRegs_end :
    ran (((start 0xFF55#16).setRegs countingRegs).setI 0xFF0#16) (fun t => t.readByte 0xFFF == 0x0F#8 && t.i == 0x1000#16) = true ∧
    faults (((start 0xFF55#16).setRegs countingRegs).setI 0xFF1#16) (.outOfBoundsAccess 0x300#16 0x1000) = true := by decide
/-- LDM-1 -/
theorem test_loadRegs :
    ran ((withByte (withByte (withByte (start 0xF265#16) 0x400 0x02#8) 0x401 0x05#8) 0x402 0x04#8).setI 0x400#16)
      (fun t => t.reg 0 == 0x02#8 && t.reg 1 == 0x05#8 && t.reg 2 == 0x04#8 && t.i == 0x403#16) = true := by decide
/-- LDM-3 and LDM-4: reads below 0x200 are legal, reads past 0xFFF are not -/
theorem test_loadRegs_bounds :
    ran ((start 0xF065#16).setI 0x050#16) (fun t => t.reg 0 == 0xF0#8 && t.i == 0x051#16) = true ∧
    faults ((start 0xF165#16).setI 0xFFF#16) (.outOfBoundsAccess 0x300#16 0x1000) = true := by decide

/-! ### Timers and the tick -/

/-- TD-1 -/
theorem test_ldVxDt : ran ((start 0xF507#16).setDt 0x3C#8) (fun t => t.reg 5 == 0x3C#8) = true := by decide
/-- TD-2 -/
theorem test_ldDtVx : ran ((start 0xF015#16).setReg 0 0x07#8) (fun t => t.dt == 0x07#8 && t.st == 0x00#8) = true := by decide
/-- TS-1 -/
theorem test_ldStVx : ran ((start 0xF118#16).setReg 1 0x02#8) (fun t => t.st == 0x02#8 && t.soundActive) = true := by decide
/-- TK-1, the first tick -/
theorem test_tick : ((State.reset.setDt 3#8).setSt 1#8).tick = (State.reset.setDt 2#8).setSt 0#8 := by decide
/-- TK-2 -/
theorem test_tick_faulted : let s := { State.reset.setDt 5#8 with mode := .faulted (.stackUnderflow 0x300#16) }
    s.tick = s := by decide

/-! ### Fetch, faults and reset -/

/-- F-1 and F-2 -/
theorem test_fetch_bounds : faults { State.reset with pc := 0xFFF#16 } (.outOfBoundsAccess 0xFFF#16 0x1000) = true ∧
    faults { State.reset with pc := 0x1000#16 } (.outOfBoundsAccess 0x1000#16 0x1000) = true := by decide
/-- F-4: an odd PC -/
theorem test_fetch_odd : ran (startAt 0x301#16 0x6A2B#16) (fun t => t.reg 0xA == 0x2B#8 && t.pc == 0x303#16) = true := by decide
/-- F-5 and F-6 -/
theorem test_unknown : faults (startAt 0x200#16 0x0123#16) (.unknownInstruction 0x200#16 0x0123#16) = true ∧
    faults State.reset (.unknownInstruction 0x200#16 0x0000#16) = true := by decide
/-- RS-2 -/
theorem test_reset : State.resetWith { waiting with i := 7#16 } [0x12#8, 0x00#8] =
    .ok { State.reset with mem := [(0x200, 0x12#8)] } ∧ State.reset.readByte 0x050 = 0xF0#8 ∧
    State.reset.readByte 0x09F = 0x80#8 ∧ State.reset.readByte 0x0A0 = 0x00#8 := by decide
/-- RS-1 -/
theorem test_reset_too_large : State.resetWith State.reset (List.replicate 3585 0#8) = .error .romTooLarge := by
  rw [State.resetWith, State.load, if_pos (by rw [List.length_replicate]; decide)]
/-- The host's word runs in the very next step after reset. -/
theorem test_withFetchWord : ran (State.reset.withFetchWord 16 0x6A2B) (fun t => t.reg 0xA == 0x2B#8 && t.pc == 0x202#16) = true := by decide

/-! ### Witnesses: for every statement with hypotheses, values that meet them together -/

/-- A step's end state as a literal: the state with a fault. -/
def faulted (s : State) (f : FaultRecord) : State := { s with mode := .faulted f }

theorem witness_DecodeOfEncodeIsTheInstruction : Instr.wellFormed (.jpV0 0xFFF#16) = true ∧ Instr.wellFormed (.drw 15 15 15) = true := by
  decide

theorem witness_EncodeOfDecodeIsTheWord : decodeWord 0xBFFF#16 = .ok (.jpV0 0xFFF#16) := by decide

/-- A word that matches a row, and one that matches none. -/
theorem witness_SwitchAgreesWithOpcodeTable :
    (∃ i, decodeWord 0x8126#16 = .ok i) ∧ ⟨"SHR_Vx__Vy", 0x8006, 0xF00F⟩ ∈ opcodeTable ∧
    OpcodeRow.matches ⟨"SHR_Vx__Vy", 0x8006, 0xF00F⟩ 0x8126#16 = true ∧ (opcodeTable.all fun r => !r.matches 0x8128#16) = true :=
  ⟨⟨.shr 1 2, by decide⟩, by decide, by decide, by decide⟩

/-- At the last address that a word can be fetched from. -/
theorem witness_StepRunsTheDecodedInstruction :
    let s := startAt 0xFFE#16 0x1FFE#16
    s.mode = .running ∧ s.pc.toNat ≤ 0xFFE ∧ decodeWord (s.wordAt s.pc.toNat) = .ok (.jp 0xFFE#16) := by decide

theorem witness_PlacedWordIsTheNextInstruction : Memory.wf waiting.mem ∧ decodeWord 0xF00A#16 = .ok (.ldVxK 0) := by decide

/-- 0xFFE is in, 0xFFF and 0x1000 are out, each under its own clause. -/
theorem witness_FetchOutsideMemoryFaults :
    (startAt 0xFFE#16 0x1FFE#16).mode = .running ∧ (startAt 0xFFE#16 0x1FFE#16).pc.toNat ≤ 0xFFE ∧
    State.reset.mode = .running ∧ 0xFFE < (State.reset.setPc 0xFFF#16).pc.toNat ∧ 0xFFE < (State.reset.setPc 0x1000#16).pc.toNat := by
  decide

theorem witness_UnknownWordFaultsWithAddressAndWord :
    let s := startAt 0x200#16 0x0123#16
    (∀ r ∈ opcodeTable, r.matches 0x0123#16 = false) ∧ s.mode = .running ∧ s.pc.toNat ≤ 0xFFE ∧ s.wordAt s.pc.toNat = 0x0123#16 := by
  decide

/-- A fault of decode. -/
theorem witness_FaultsArePrecise :
    let s := startAt 0x200#16 0x0123#16
    let f := FaultRecord.unknownInstruction 0x200#16 0x0123#16
    step s = .next (faulted s f) ∧ (faulted s f).mode = .faulted f ∧ s.mode = .running :=
  ⟨eq_of_answers (by decide), rfl, rfl⟩

/-- A faulted state, and a reset that leaves the mode. -/
theorem witness_FaultedIsTerminal :
    let s := faulted State.reset (.stackUnderflow 0x300#16)
    s.mode = .faulted (.stackUnderflow 0x300#16) ∧
    ∃ a : Answer, command (.reset []) s = .next a ∧ a.state.mode ≠ .faulted (.stackUnderflow 0x300#16) :=
  ⟨rfl, _, rfl, by decide⟩

/-- Each of the six instructions faults somewhere; the addresses are the first past memory and the last below 0x200. -/
theorem witness_OnlySixInstructionsFaultEachForOneCause :
    let s := State.reset
    (∀ g, s.mode ≠ .faulted g) ∧
    exec (.call 0) { s with sp := 16 } = .next (faulted { s with sp := 16 } (.stackOverflow 0x200#16)) ∧
    exec .ret s = .next (faulted s (.stackUnderflow 0x200#16)) ∧
    exec (.drw 0 0 1) (s.setI 0x1000#16) = .next (faulted (s.setI 0x1000#16) (.outOfBoundsAccess 0x200#16 0x1000)) ∧
    exec (.loadRegs 0) (s.setI 0x1000#16) = .next (faulted (s.setI 0x1000#16) (.outOfBoundsAccess 0x200#16 0x1000)) ∧
    exec (.ldB 0) (s.setI 0xFFE#16) = .next (faulted (s.setI 0xFFE#16) (.outOfBoundsAccess 0x200#16 0x1000)) ∧
    exec (.storeRegs 0) (s.setI 0x1FF#16) = .next (faulted (s.setI 0x1FF#16) (.outOfBoundsAccess 0x200#16 0x1FF)) :=
  ⟨by simp [State.reset], rfl, rfl, rfl, rfl, rfl, rfl⟩

/-- Running to Blocked; Blocked to Running; Blocked to Blocked; Running to Faulted; a reset. -/
theorem witness_ModeTransitions :
    step (startAt 0x200#16 0xF30A#16) = .next waiting ∧
    (∃ t, step (waiting.setKeys 0x8000#16) = .next t ∧ t.mode = .running) ∧
    step waiting = .next waiting ∧
    step State.reset = .next (faulted State.reset (.unknownInstruction 0x200#16 0#16)) ∧
    ∃ t, State.reset.resetWith [0x12#8] = .ok t :=
  ⟨eq_of_answers (by decide), ⟨_, rfl, rfl⟩, eq_of_answers (by decide), eq_of_answers (by decide), _, rfl⟩

/-- A blocked machine meets the invariant, and steps. -/
theorem witness_EveryStepKeepsTheInvariant : waiting.Inv ∧ step waiting = .next waiting := by
  refine ⟨⟨by decide, by decide, by decide, fun x prev h => ?_, fun f h => by cases h⟩, eq_of_answers (by decide)⟩
  cases h
  decide

/-- A faulted machine meets the invariant, and a reset answers. -/
theorem witness_EveryCommandKeepsTheInvariant :
    (faulted (startAt 0x200#16 0x0123#16) (.unknownInstruction 0x200#16 0x0123#16)).Inv ∧
    ∃ a, command (.reset [0x12#8]) State.reset = .next a := by
  refine ⟨⟨by decide, by decide, by decide, fun x prev h => (by cases h), fun f h => ?_⟩, _, rfl⟩
  cases h
  exact ⟨rfl, by decide, by decide, by decide⟩

/-- A step that sets DT, one that sets ST, one that sets neither. -/
theorem witness_TimersKeepTheirValuesAcrossSteps :
    (∃ t, step ((start 0xF015#16).setReg 0 7#8) = .next t ∧ t.dt = 7#8) ∧
    (∃ t, step ((start 0xF018#16).setReg 0 7#8) = .next t ∧ t.st = 7#8) ∧
    ∃ t, step ((start 0xF007#16).setDt 7#8) = .next t ∧ t.dt = 7#8 :=
  ⟨⟨_, rfl, rfl⟩, ⟨_, rfl, rfl⟩, _, rfl, rfl⟩

/-- Each part is changed by a step somewhere. -/
theorem witness_EachPartHasOnlyItsNamedWriters :
    (∃ t, step (start 0xAFFF#16) = .next t ∧ t.i ≠ (start 0xAFFF#16).i) ∧
    (∃ t, step (start 0x2300#16) = .next t ∧ t.stackAt 0 ≠ (start 0x2300#16).stackAt 0 ∧ t.sp ≠ (start 0x2300#16).sp) ∧
    (∃ t, step ((start 0xD011#16).setI 0x050#16) = .next t ∧ t.pixel 0 0 ≠ (start 0xD011#16).pixel 0 0) ∧
    ∃ t, step (((start 0xF033#16).setReg 0 0xFF#8).setI 0x200#16) = .next t ∧ t.readByte 0x200 ≠ (start 0xF033#16).readByte 0x200 :=
  ⟨⟨_, rfl, by decide⟩, ⟨_, rfl, by decide, by decide⟩, ⟨_, rfl, by decide⟩, _, rfl, by decide⟩

theorem witness_RegisterWritersFollowTheTable :
    ∃ t, exec (.addReg 0 1) (State.reset.setRegs countingRegs) = .next t ∧ t.reg VF ≠ (State.reset.setRegs countingRegs).reg VF :=
  ⟨_, rfl, by decide⟩

/-- The step stores at the first address that is not protected. -/
theorem witness_ProtectedLowMemoryNeverChanges :
    let s := ((start 0xF055#16).setReg 0 0xAB#8).setI 0x200#16
    s.quirks.protectLowMemory = true ∧ ∃ t, step s = .next t ∧ t.readByte 0x200 = 0xAB#8 := ⟨rfl, _, rfl, by decide⟩

/-- The store ends at the last byte of memory. -/
theorem witness_StoredBytesAreFetched :
    let s := (start 0xF155#16).setI 0xFFE#16
    0 + 1 ≤ (1 : Reg).val ∧ Memory.wf s.mem ∧ (∀ k, k ≤ (1 : Reg).val → WriteOk s.quirks (s.i.toNat + k)) ∧
    ∃ t, exec (.storeRegs 1) s = .next t := ⟨by decide, by decide, by decide, _, rfl⟩

theorem witness_SoundTimerIsInvisibleToPrograms : ∃ t, step ((start 0xF018#16).setReg 0 7#8) = .next t := ⟨_, rfl⟩

/-- One return address in use, and another value above it. -/
theorem witness_StaleStackEntriesAreInvisible :
    let s := { start 0x00EE#16 with sp := 1 }
    (∀ j : Fin 16, j.val < s.sp.val → (s.stack.set 1 7#16)[j.val] = s.stackAt j) ∧ s.stack.set 1 7#16 ≠ s.stack ∧
    ∃ t, step s = .next t := ⟨by decide, by decide, _, rfl⟩

theorem witness_LogicOpsAndTheirVfReset :
    (Instr.orReg VF 0 = .orReg VF 0 ∧ or = or) ∧ (Instr.andReg VF 0 = .andReg VF 0 ∧ and = and) ∧
    (Instr.xorReg 0 VF = .xorReg 0 VF ∧ xor = xor) := ⟨⟨rfl, rfl⟩, ⟨rfl, rfl⟩, rfl, rfl⟩

theorem witness_ShiftsSetTheBitShiftedOut :
    255 = ((State.reset.setReg 2 0xFF#8).reg (if State.reset.quirks.shiftUsesVy then 2 else 1)).toNat := by decide

/-- Fifteen rows that end at 0xFFF, and fifteen that do not fit; a pixel covered and lit. -/
theorem witness_DrawXorsTheSpriteAndReportsCollision :
    (∀ r, r < (15 : Fin 16).val → ReadOk ((State.reset.setI 0xFF1#16).i.toNat + r)) ∧
    (∃ r, r < (15 : Fin 16).val ∧ ¬ ReadOk ((State.reset.setI 0xFF2#16).i.toNat + r)) ∧
    (let s := withPixel (State.reset.setI 0x050#16) 0 0
     s.SpriteCovers 0 0 1 0 0 ∧ s.pixel 0 0 = true) :=
  ⟨by decide, ⟨14, by decide⟩, ⟨0, 0, by decide, by decide, by unfold State.SpriteBitLands; decide⟩, by decide⟩

/-- The second draw runs in the first one's end state moved back to the instruction. -/
theorem witness_DrawingTwiceRestoresTheFramebuffer :
    let s := (start 0xD015#16).setI 0x050#16
    (∀ r, r < (5 : Fin 16).val → ReadOk (s.i.toNat + r)) ∧
    ∃ t u, exec (.drw 0 1 5) s = .next t ∧ exec (.drw 2 3 5) (t.setPc 0x300#16) = .next u ∧
      ((t.setPc 0x300#16).reg 2).toNat % 64 = (s.reg 0).toNat % 64 ∧ ((t.setPc 0x300#16).reg 3).toNat % 32 = (s.reg 1).toNat % 32 ∧
      t.pixel 0 0 = true :=
  ⟨by decide, _, _, rfl, rfl, by decide, by decide, by decide⟩

theorem witness_JumpWithOffset : addrFits 0xFFF#16 = true ∧ addrFits 0x000#16 = true := by decide

theorem witness_CallPushesOrOverflows : ({ State.reset with sp := 15 } : State).sp.val < 16 ∧
    ({ State.reset with sp := 16 } : State).sp.val = 16 := by decide

theorem witness_ReturnPopsOrUnderflows : 0 < ({ State.reset with sp := 1 } : State).sp.val ∧ State.reset.sp.val = 0 := by decide

/-- The sixteenth call, and a return later in another state. -/
theorem witness_CallThenReturnRoundTrip :
    let s := { State.reset with sp := 15 }
    s.sp.val < 16 ∧ ∃ t, exec (.call 0x300#16) s = .next t ∧ (t.setPc 0x400#16).sp = t.sp ∧
      (t.setPc 0x400#16).stackAt 15 = t.stackAt 15 ∧ t.sp = 16 := ⟨by decide, _, rfl, rfl, rfl, by decide⟩

/-- Each of the four skips, with its condition true and false. -/
theorem witness_SkipsPassOverOneWord :
    let s := State.reset.setReg 1 5#8
    (s.reg 1 = 5#8 ∧ ¬ s.reg 1 = 6#8) ∧ (s.reg 1 ≠ 6#8 ∧ ¬ s.reg 1 ≠ 5#8) ∧ (s.reg 1 = s.reg 1 ∧ ¬ s.reg 1 = s.reg 0) ∧
    (s.reg 1 ≠ s.reg 0 ∧ ¬ s.reg 1 ≠ s.reg 1) := by decide

theorem witness_KeySkipsTestTheLowNibblesKey :
    let s := (State.reset.setReg 1 0xFF#8).setKeys 0x8000#16
    15 = (s.reg 1).toNat % 16 ∧ s.key 15 = true ∧ s.key 0 = false := by decide

/-- With no new key, and with the highest key as the lowest new one. -/
theorem witness_KeyWaitPollTakesTheLowestNewKey :
    waiting.mode = .blocked 3 0#16 ∧ (∀ k, k < 16 → waiting.key k = true → (0#16 : Keypad).getLsbD k = true) ∧
    (let s := waiting.setKeys 0x8000#16
     s.key 15 = true ∧ (0#16 : Keypad).getLsbD 15 = false ∧ ∀ j, j < 15 → ¬ (s.key j = true ∧ (0#16 : Keypad).getLsbD j = false)) := by
  decide

/-- A key that is held since the wait began. -/
theorem witness_KeyWaitWithoutAPressNeverEnds :
    let s := { waiting with mode := .blocked 3 0x0020#16, keys := 0x0020#16 }
    s.mode = .blocked 3 0x0020#16 ∧ ∀ j, j < 16 → s.key j = true → (0x0020#16 : Keypad).getLsbD j = true := by decide

/-- The first and the last address that pass all three checks, and the first and the third that fail. -/
theorem witness_BcdStoresThreeDigitsOrFaults :
    let q := defaultQuirks
    (∀ j, j < 3 → WriteOk q (0x200 + j)) ∧ (∀ j, j < 3 → WriteOk q (0xFFD + j)) ∧ Memory.wf State.reset.mem ∧
    ¬ WriteOk q (0x1FF + 0) ∧ (¬ WriteOk q (0xFFE + 2) ∧ ∀ k, k < 2 → WriteOk q (0xFFE + k)) := by decide

theorem witness_StoreRegistersOrFault :
    let q := defaultQuirks
    (∀ j, j ≤ (15 : Reg).val → WriteOk q (0x200 + j)) ∧ (∀ j, j ≤ (15 : Reg).val → WriteOk q (0xFF0 + j)) ∧
    Memory.wf State.reset.mem ∧ ¬ WriteOk q (0x1FF + 0) ∧
    (¬ WriteOk q (0xFF1 + 15) ∧ ∀ k, k < 15 → WriteOk q (0xFF1 + k)) := by decide

theorem witness_LoadRegistersOrFault :
    (∀ j, j ≤ (15 : Reg).val → ReadOk (0x000 + j)) ∧ (∀ j, j ≤ (15 : Reg).val → ReadOk (0xFF0 + j)) ∧
    ¬ ReadOk (0x1000 + 0) ∧ (¬ ReadOk (0xFF1 + 15) ∧ ∀ k, k < 15 → ReadOk (0xFF1 + k)) := by decide

/-- A blocked state that is not faulted, and a faulted one. -/
theorem witness_TickCountsBothTimersDown :
    (∀ f, waiting.mode ≠ .faulted f) ∧ (faulted waiting (.stackUnderflow 0#16)).mode = .faulted (.stackUnderflow 0#16) :=
  ⟨by simp [waiting], rfl⟩

/-- The greatest and the least N. -/
theorem witness_TimersDecayToZeroAndStay :
    let s := (State.reset.setReg 0 0xFF#8).setReg 1 0x01#8
    (∀ f, s.mode ≠ .faulted f) ∧ 255 = (s.reg 0).toNat ∧ 1 = (s.reg 1).toNat ∧
    (∃ t, exec (.ldDtVx 0) s = .next t) ∧ ∃ t, exec (.ldStVx 1) s = .next t :=
  ⟨fun f h => (by cases h), by decide, by decide, ⟨_, rfl⟩, _, rfl⟩

/-- A longest ROM, and the empty one. -/
theorem witness_ResetValues : (∃ t, State.reset.resetWith (List.replicate 3584 0xAA#8) = .ok t) ∧ ∃ t, waiting.resetWith [] = .ok t :=
  ⟨⟨_, by rw [State.resetWith, State.load, if_neg (by rw [List.length_replicate]; decide)]⟩, _, rfl⟩

theorem witness_LoadCopiesTheRomOrFails : 3584 < (List.replicate 3585 0xAA#8).length ∧ (List.replicate 3584 0xAA#8).length ≤ 3584 ∧
    Memory.wf State.reset.mem := ⟨by rw [List.length_replicate]; decide, by rw [List.length_replicate], by decide⟩

/-- At the last address at which a run can be idle, and at the reset vector. -/
theorem witness_IdleRunsStayIdle : (startAt 0xFFE#16 0x1FFE#16).IdleAt 0xFFE ∧ (startAt 0x200#16 0x1200#16).IdleAt 0x200 :=
  ⟨⟨rfl, by decide, by decide, by decide⟩, rfl, by decide, by decide, by decide⟩

/-- A slice of two steps with a keypad update. -/
theorem witness_SliceStepsSeeOneKeypadAndTickOnce :
    ∃ t, runCommands (sliceCommands (some 0x0080#16) 2) ((startAt 0x200#16 0xF00A#16).setDt 3#8) = .next t ∧ t.dt = 2#8 :=
  ⟨_, rfl, by decide⟩

end Sys2Proof.Tests
end

section
/-! The opcode switch and the encoder: a word that decodes is the encoding of its instruction (R71, R76), so it matches a row. -/

namespace Sys2Proof

/-! ### A word from its fields, the opcode nibble given as the switch of R75 tests it -/

theorem formatNNN_of_fieldOp {w : Word} {k : Nat} (hop : (fieldOp w).toNat = k) :
    formatNNN (BitVec.ofNat 4 k) (fieldNnn w) = w := by
  rw [← hop, BitVec.ofNat_toNat, BitVec.setWidth_eq, formatNNN_fields]

theorem formatXKK_of_fieldOp {w : Word} {k : Nat} (hop : (fieldOp w).toNat = k) :
    formatXKK (BitVec.ofNat 4 k) (fieldX w) (fieldKk w) = w := by
  rw [← hop, BitVec.ofNat_toNat, BitVec.setWidth_eq, formatXKK_fields]

theorem formatXYN_of_fieldOp {w : Word} {k : Nat} (hop : (fieldOp w).toNat = k) :
    formatXYN (BitVec.ofNat 4 k) (fieldX w) (fieldY w) (fieldN w) = w := by
  rw [← hop, BitVec.ofNat_toNat, BitVec.setWidth_eq, formatXYN_fields]

/-- Formats XYN with a fixed low nibble, as in the groups 5, 8 and 9. -/
theorem formatXYN_of_fieldOp_fieldN {w : Word} {k n : Nat} (hop : (fieldOp w).toNat = k) (hn : (fieldN w).toNat = n) :
    formatXYN (BitVec.ofNat 4 k) (fieldX w) (fieldY w) (BitVec.ofNat 4 n) = w := by
  rw [← hn, BitVec.ofNat_toNat, BitVec.setWidth_eq, formatXYN_of_fieldOp hop]

/-- Format XFF: the low byte is fixed, as in the groups E and F. -/
theorem formatXFF_of_fieldOp_fieldKk {w : Word} {k : Nat} {fn : Byte} (hop : (fieldOp w).toNat = k) (hkk : fieldKk w = fn) :
    formatXFF (BitVec.ofNat 4 k) (fieldX w) fn = w :=
  hkk ▸ formatXKK_of_fieldOp hop

/-! ### Encoding inverts the switch, group by group (R75) -/

theorem encode_of_decodeGroup0 {w : Word} {i : Instr} (h : decodeGroup0 w = some i) : encode i = w := by
  unfold decodeGroup0 at h
  split at h
  next hw => cases h; exact hw.symm
  next =>
    split at h
    next hw => cases h; exact hw.symm
    next => cases h

theorem encode_of_decodeGroup8 {w : Word} {i : Instr} (hop : (fieldOp w).toNat = 0x8) (h : decodeGroup8 w = some i) :
    encode i = w := by
  unfold decodeGroup8 at h
  split at h <;> cases h <;> exact formatXYN_of_fieldOp_fieldN hop ‹_›

theorem encode_of_decodeGroupE {w : Word} {i : Instr} (hop : (fieldOp w).toNat = 0xE) (h : decodeGroupE w = some i) :
    encode i = w := by
  unfold decodeGroupE at h
  repeat' split at h
  all_goals cases h
  all_goals exact formatXFF_of_fieldOp_fieldKk hop ‹_›

theorem encode_of_decodeGroupF {w : Word} {i : Instr} (hop : (fieldOp w).toNat = 0xF) (h : decodeGroupF w = some i) :
    encode i = w := by
  unfold decodeGroupF at h
  repeat' split at h
  all_goals cases h
  all_goals exact formatXFF_of_fieldOp_fieldKk hop ‹_›

/-- A word that the switch of R75 decodes is the encoding of the instruction it decodes to: the switch drops no bit of it. -/
theorem encode_of_decodeOp {w : Word} {i : Instr} (h : decodeOp w = some i) : encode i = w := by
  unfold decodeOp at h
  split at h
  next => exact encode_of_decodeGroup0 h
  next hop => cases h; exact formatNNN_of_fieldOp hop
  next hop => cases h; exact formatNNN_of_fieldOp hop
  next hop => cases h; exact formatXKK_of_fieldOp hop
  next hop => cases h; exact formatXKK_of_fieldOp hop
  next hop =>
    split at h
    next hn => cases h; exact formatXYN_of_fieldOp_fieldN hop (congrArg BitVec.toNat hn)
    next => cases h
  next hop => cases h; exact formatXKK_of_fieldOp hop
  next hop => cases h; exact formatXKK_of_fieldOp hop
  next hop => exact encode_of_decodeGroup8 hop h
  next hop =>
    split at h
    next hn => cases h; exact formatXYN_of_fieldOp_fieldN hop (congrArg BitVec.toNat hn)
    next => cases h
  next hop => cases h; exact formatNNN_of_fieldOp hop
  next hop => cases h; exact formatNNN_of_fieldOp hop
  next hop => cases h; exact formatXKK_of_fieldOp hop
  next hop => cases h; exact formatXYN_of_fieldOp hop
  next hop => exact encode_of_decodeGroupE hop h
  next =>
    have hlt : (fieldOp w).toNat < 16 := (fieldOp w).isLt
    have hop : (fieldOp w).toNat = 0xF := by grind
    exact encode_of_decodeGroupF hop h

/-! ### The table of R76 -/

/-- Every instruction's encoding matches a row of the table, the one that bears its mnemonic. -/
theorem Laws.rowMatch_statement : ∀ i : Instr, RowMatch.Statement i
  | .cls => RowMatch.cls
  | .ret => RowMatch.ret
  | .jp nnn => RowMatch.jp nnn
  | .call nnn => RowMatch.call nnn
  | .seByte x kk => RowMatch.seByte x kk
  | .sneByte x kk => RowMatch.sneByte x kk
  | .seReg x y => RowMatch.seReg x y
  | .ldByte x kk => RowMatch.ldByte x kk
  | .addByte x kk => RowMatch.addByte x kk
  | .ldReg x y => RowMatch.ldReg x y
  | .orReg x y => RowMatch.orReg x y
  | .andReg x y => RowMatch.andReg x y
  | .xorReg x y => RowMatch.xorReg x y
  | .addReg x y => RowMatch.addReg x y
  | .subReg x y => RowMatch.subReg x y
  | .shr x y => RowMatch.shr x y
  | .subn x y => RowMatch.subn x y
  | .shl x y => RowMatch.shl x y
  | .sneReg x y => RowMatch.sneReg x y
  | .ldI nnn => RowMatch.ldI nnn
  | .jpV0 nnn => RowMatch.jpV0 nnn
  | .rnd x kk => RowMatch.rnd x kk
  | .drw x y n => RowMatch.drw x y n
  | .skp x => RowMatch.skp x
  | .sknp x => RowMatch.sknp x
  | .ldVxDt x => RowMatch.ldVxDt x
  | .ldVxK x => RowMatch.ldVxK x
  | .ldDtVx x => RowMatch.ldDtVx x
  | .ldStVx x => RowMatch.ldStVx x
  | .addI x => RowMatch.addI x
  | .ldF x => RowMatch.ldF x
  | .ldB x => RowMatch.ldB x
  | .storeRegs x => RowMatch.storeRegs x
  | .loadRegs x => RowMatch.loadRegs x

/-- A word that decodes matches a row of the table, the one that bears the instruction's mnemonic. -/
theorem exists_row_of_decodeOp {w : Word} {i : Instr} (h : decodeOp w = some i) :
    ∃ r ∈ opcodeTable, r.mnemonic = i.mnemonic ∧ r.matches w = true :=
  encode_of_decodeOp h ▸ Laws.rowMatch_statement i

/-- The switch answers nothing for a word that matches no row (R84). -/
theorem decodeOp_eq_none_of_no_row {w : Word} (hrow : ∀ r ∈ opcodeTable, r.matches w = false) : decodeOp w = none := by
  refine Option.eq_none_iff_forall_ne_some.mpr fun i hi => ?_
  obtain ⟨r, hr, -, hmatch⟩ := exists_row_of_decodeOp hi
  exact Bool.false_ne_true ((hrow r hr).symm.trans hmatch)

end Sys2Proof

/-! ### The step on a word that does not decode -/

namespace Sys2Proof.Machine

/-- A fetched word that the switch answers nothing for is reported with its address (R84). -/
theorem fetchDecode_of_unknown {s : State} (hpc : s.pc.toNat ≤ 0xFFE) (hdec : decodeOp (s.wordAt s.pc.toNat) = none) :
    fetchDecode s = .error (.unknownInstruction s.pc (s.wordAt s.pc.toNat)) := by
  unfold State.wordAt at hdec ⊢
  rw [fetchDecode_of_le hpc, hdec]

/-- A fault of fetch or decode is taken: nothing but the mode changes (R70, R204). -/
theorem step_of_fetchDecode_error {s : State} {f : FaultRecord} (hmode : s.mode = .running) (hf : fetchDecode s = .error f) :
    step s = .next (s.setMode (.faulted f)) := by
  simp [step, hmode, hf]

/-- Settles O8: the encoding of every instruction matches a row, and a word that decodes is such an encoding; so a word without a
row does not decode, and the step takes the fault of decode. -/
theorem unknownWordFaultsWithAddressAndWord : Obligations.UnknownWordFaultsWithAddressAndWord := by
  intro s w hrow
  have hdec : decodeOp w = none := decodeOp_eq_none_of_no_row hrow
  refine ⟨decodeWord_eq_error.mpr ⟨hdec, rfl⟩, fun hmode hpc hw => ?_⟩
  subst hw
  exact step_of_fetchDecode_error hmode (fetchDecode_of_unknown hpc hdec)

end Sys2Proof.Machine
end

section
/-! Loads, sums and differences (41_arith_logic.md): each moves PC past its word and writes V[x], or V[x] and then VF; what such a
step leaves unchanged is said once for both shapes. -/

namespace Sys2Proof.Machine

/-! ### Frames: a listed part or register may be written -/

theorem unchangedBut_advance {ps : List Part} (s : State) (hpc : Part.pc ∈ ps) : UnchangedBut ps s s.advance := by
  simp [UnchangedBut, hpc]

theorem UnchangedBut.setReg {ps : List Part} {s t : State} (h : UnchangedBut ps s t) (hv : Part.v ∈ ps) (x : Reg) (b : Byte) :
    UnchangedBut ps s (t.setReg x b) := by
  obtain ⟨hmem, -, hrest⟩ := h
  exact ⟨hmem, fun hnv => absurd hv hnv, hrest⟩

theorem regsUnchangedBut_advance (ds : List Reg) (s : State) : RegsUnchangedBut ds s s.advance := fun _ _ => rfl

theorem RegsUnchangedBut.setReg {ds : List Reg} {s t : State} (h : RegsUnchangedBut ds s t) {x : Reg} (hx : x ∈ ds) (b : Byte) :
    RegsUnchangedBut ds s (t.setReg x b) := by
  intro q hq
  have hne : q ≠ x := fun heq => hq (heq ▸ hx)
  rw [State.reg_setReg, if_neg hne, h q hq]

/-! ### The two shapes of a step -/

/-- An instruction that only writes V[x], as an ordinary register even when x = F (R100 to R102). -/
theorem exec_of_setReg {i : Instr} {s : State} {x : Reg} {r : Byte} (h : exec i s = .next (s.advance.setReg x r)) :
    ∃ t, exec i s = .next t ∧
      t.reg x = r ∧ RegsUnchangedBut [x] s t ∧ t.pc = s.pc + 2#16 ∧ UnchangedBut [.v, .pc] s t :=
  ⟨_, h, by simp, (regsUnchangedBut_advance _ s).setReg (by simp) r, rfl,
    (unchangedBut_advance s (by simp)).setReg (by simp) x r⟩

/-- An instruction that writes V[x] and then the flag: VF ends with the flag also when x = F (R112). -/
theorem exec_of_setResultThenFlag {i : Instr} {s : State} {x : Reg} {r : Byte} {f : Bool}
    (h : exec i s = .next (s.advance.setResultThenFlag x r f)) :
    ∃ t, exec i s = .next t ∧ (x ≠ VF → t.reg x = r) ∧ t.reg VF = flagByte f ∧
      RegsUnchangedBut [x, VF] s t ∧ t.pc = s.pc + 2#16 ∧ UnchangedBut [.v, .pc] s t := by
  have hregs : RegsUnchangedBut [x, VF] s (s.advance.setResultThenFlag x r f) :=
    ((regsUnchangedBut_advance _ s).setReg (by simp) r).setReg (by simp) (flagByte f)
  have hparts : UnchangedBut [.v, .pc] s (s.advance.setResultThenFlag x r f) :=
    ((unchangedBut_advance s (by simp)).setReg (by simp) x r).setReg (by simp) VF (flagByte f)
  exact ⟨_, h, fun hx => by simp [hx], by simp, hregs, rfl, hparts⟩

/-! ### The instructions -/

theorem exec_ldByte (x : Reg) (kk : Byte) (s : State) : exec (.ldByte x kk) s = .next (s.advance.setReg x kk) := rfl

theorem exec_ldReg (x y : Reg) (s : State) : exec (.ldReg x y) s = .next (s.advance.setReg x (s.reg y)) := rfl

theorem exec_addByte (x : Reg) (kk : Byte) (s : State) :
    exec (.addByte x kk) s = .next (s.advance.setReg x (sum8 (s.reg x) kk)) := rfl

theorem exec_addReg (x y : Reg) (s : State) : exec (.addReg x y) s =
    .next (s.advance.setResultThenFlag x (sum8 (s.reg x) (s.reg y)) (addCarry (s.reg x) (s.reg y))) := rfl

theorem exec_subReg (x y : Reg) (s : State) : exec (.subReg x y) s =
    .next (s.advance.setResultThenFlag x (diff8 (s.reg x) (s.reg y)) (noBorrow (s.reg x) (s.reg y))) := rfl

theorem exec_subn (x y : Reg) (s : State) : exec (.subn x y) s =
    .next (s.advance.setResultThenFlag x (diff8 (s.reg y) (s.reg x)) (noBorrow (s.reg y) (s.reg x))) := rfl

theorem flagByte_addCarry (a b : Byte) : flagByte (addCarry a b) = if a.toNat + b.toNat > 255 then 1#8 else 0#8 :=
  flagByte_decide _

theorem flagByte_noBorrow (a b : Byte) : flagByte (noBorrow a b) = if a.toNat ≥ b.toNat then 1#8 else 0#8 :=
  flagByte_decide _

/-- The argument that `SUB` and `SUBN` share, which differ in the order of their operands (R107, R109). -/
theorem exec_of_difference {i : Instr} {s : State} {x : Reg} {a b : Byte}
    (h : exec i s = .next (s.advance.setResultThenFlag x (diff8 a b) (noBorrow a b))) :
    ∃ t, exec i s = .next t ∧ (x ≠ VF → (t.reg x).toNat = (a.toNat + 256 - b.toNat) % 256) ∧
      t.reg VF = (if a.toNat ≥ b.toNat then 1#8 else 0#8) ∧
      RegsUnchangedBut [x, VF] s t ∧ t.pc = s.pc + 2#16 ∧ UnchangedBut [.v, .pc] s t := by
  obtain ⟨t, ht, hres, hflag, hframe⟩ := exec_of_setResultThenFlag h
  exact ⟨t, ht, fun hx => by rw [hres hx, diff8_toNat], hflag.trans (flagByte_noBorrow a b), hframe⟩

/-- Settles O24: both loads only write V[x]. -/
theorem loadImmediateAndCopy : Obligations.LoadImmediateAndCopy :=
  ⟨fun x kk s => exec_of_setReg (exec_ldByte x kk s), fun x y s => exec_of_setReg (exec_ldReg x y s)⟩

/-- Settles O25: the sum is written as an ordinary register, and nothing is written after it. -/
theorem addImmediateWritesNoFlag : Obligations.AddImmediateWritesNoFlag := by
  intro x kk s
  obtain ⟨t, ht, hres, hframe⟩ := exec_of_setReg (exec_addByte x kk s)
  exact ⟨t, ht, by rw [hres, sum8_toNat], hframe⟩

/-- Settles O27: the sum, and then the carry as the flag. -/
theorem addRegistersSetsCarry : Obligations.AddRegistersSetsCarry := by
  intro x y s
  obtain ⟨t, ht, hres, hflag, hframe⟩ := exec_of_setResultThenFlag (exec_addReg x y s)
  exact ⟨t, ht, fun hx => by rw [hres hx, sum8_toNat], hflag.trans (flagByte_addCarry (s.reg x) (s.reg y)), hframe⟩

/-- Settles O28: `SUB` and `SUBN` are the same difference with the operands exchanged. -/
theorem subtractionsSetNoBorrow : Obligations.SubtractionsSetNoBorrow :=
  ⟨fun x y s => exec_of_difference (exec_subReg x y s), fun x y s => exec_of_difference (exec_subn x y s)⟩

end Sys2Proof.Machine
end

section
/-! Clearing the screen (42_display.md): PC moves past the word and the dark picture replaces the framebuffer. -/

namespace Sys2Proof.Machine

theorem UnchangedBut.setFb {ps : List Part} {s t : State} (h : UnchangedBut ps s t) (hfb : Part.fb ∈ ps) (f : Framebuffer) :
    UnchangedBut ps s (t.setFb f) := by
  obtain ⟨hmem, hv, hi, hpc, hstack, hsp, hdt, hst, -, hrest⟩ := h
  exact ⟨hmem, hv, hi, hpc, hstack, hsp, hdt, hst, fun hnfb => absurd hfb hnfb, hrest⟩

theorem exec_cls (s : State) : exec .cls s = .next (s.advance.setFb (Vector.replicate 32 0#64)) := rfl

/-- A framebuffer of 32 zero rows has no lit pixel. -/
theorem State.pixel_setFb_replicate_zero (s : State) (r : Fin 32) (c : Fin 64) :
    (s.setFb (Vector.replicate 32 0#64)).pixel r c = false := by
  rw [State.pixel_setFb, Vector.getElem_replicate, BitVec.getLsbD_zero]

/-- Settles O31: every row of the new framebuffer is zero, and only PC was written besides it (R130). -/
theorem clearDarkensEveryPixel : Obligations.ClearDarkensEveryPixel := fun s =>
  ⟨_, exec_cls s, State.pixel_setFb_replicate_zero s.advance, rfl,
    (unchangedBut_advance s (by simp)).setFb (by simp) (Vector.replicate 32 0#64)⟩

end Sys2Proof.Machine
end

section
/-! Jumps, calls and skips (43_control.md): each ends by setting PC, and a call pushes before it does. -/

namespace Sys2Proof.Machine

/-! ### Frames of the two writes -/

theorem UnchangedBut.refl (ps : List Part) (s : State) : UnchangedBut ps s s := by
  simp [UnchangedBut]

theorem UnchangedBut.setPc {ps : List Part} {s t : State} (h : UnchangedBut ps s t) (hpc : Part.pc ∈ ps) (w : Word) :
    UnchangedBut ps s (t.setPc w) := by
  obtain ⟨hmem, hv, hi, -, hrest⟩ := h
  exact ⟨hmem, hv, hi, fun hnpc => absurd hpc hnpc, hrest⟩

theorem UnchangedBut.setStack {ps : List Part} {s t : State} (h : UnchangedBut ps s t) (hstack : Part.stack ∈ ps)
    (hsp : Part.sp ∈ ps) (k : Vector Word 16) (p : Fin 17) : UnchangedBut ps s (t.setStack k p) := by
  obtain ⟨hmem, hv, hi, hpc, -, -, hrest⟩ := h
  exact ⟨hmem, hv, hi, hpc, fun hn => absurd hstack hn, fun hn => absurd hsp hn, hrest⟩

/-! ### Jump -/

theorem exec_jp (nnn : Word) (s : State) : exec (.jp nnn) s = .next (s.setPc nnn) := rfl

/-- Settles O35: the jump is one write of PC, with no check before it (R140). -/
theorem jumpSetsPcOnly : Obligations.JumpSetsPcOnly := fun nnn s =>
  ⟨_, exec_jp nnn s, State.setPc_pc s nnn, (UnchangedBut.refl _ s).setPc (by simp) nnn⟩

/-! ### Call -/

/-- With room on the stack: push, then jump (R141). -/
theorem exec_call_of_lt (nnn : Word) {s : State} (h : s.sp.val < 16) : exec (.call nnn) s =
    .next ((s.setStack (s.stack.set s.sp.val s.nxt h) ⟨s.sp.val + 1, by omega⟩).setPc nnn) :=
  dif_pos h

/-- With 16 return addresses held, the check fails before any write (R141). -/
theorem exec_call_of_full (nnn : Word) {s : State} (h : s.sp.val = 16) :
    exec (.call nnn) s = .next (s.setMode (.faulted (.stackOverflow s.pc))) :=
  dif_neg (by omega)

/-- The pushed entry is the one that SP named. -/
theorem State.stackAt_setStack_set_self (s : State) (w : Word) (p : Fin 17) (h : s.sp.val < 16) :
    (s.setStack (s.stack.set s.sp.val w h) p).stackAt ⟨s.sp.val, h⟩ = w := by
  rw [State.stackAt_setStack, Vector.getElem_set_self]

/-- A push leaves every entry that SP did not name. -/
theorem State.stackAt_setStack_set_ne (s : State) (w : Word) (p : Fin 17) (h : s.sp.val < 16) {j : Fin 16}
    (hj : j.val ≠ s.sp.val) : (s.setStack (s.stack.set s.sp.val w h) p).stackAt j = s.stackAt j := by
  rw [State.stackAt_setStack, Vector.getElem_set_ne _ _ hj.symm, State.stackAt]

/-- Settles O37: below 16 entries the call writes the entry that SP names, SP and PC; at 16 it takes the fault. -/
theorem callPushesOrOverflows : Obligations.CallPushesOrOverflows := by
  refine fun nnn s => ⟨fun h => ?_, exec_call_of_full nnn⟩
  have hframe := ((UnchangedBut.refl [.stack, .sp, .pc] s).setStack (by simp) (by simp)
    (s.stack.set s.sp.val s.nxt h) ⟨s.sp.val + 1, by omega⟩).setPc (by simp) nnn
  refine ⟨_, exec_call_of_lt nnn h, ?_, fun j hj => ?_, rfl, rfl, hframe⟩
  · rw [State.setPc_stackAt, State.stackAt_setStack_set_self, State.nxt]
  · rw [State.setPc_stackAt, State.stackAt_setStack_set_ne s s.nxt _ h hj]

/-! ### Skips -/

theorem exec_seByte (x : Reg) (kk : Byte) (s : State) : exec (.seByte x kk) s = .next (s.skipIf (s.reg x == kk)) := rfl

theorem exec_sneByte (x : Reg) (kk : Byte) (s : State) : exec (.sneByte x kk) s = .next (s.skipIf (s.reg x != kk)) := rfl

theorem exec_seReg (x y : Reg) (s : State) : exec (.seReg x y) s = .next (s.skipIf (s.reg x == s.reg y)) := rfl

theorem exec_sneReg (x y : Reg) (s : State) : exec (.sneReg x y) s = .next (s.skipIf (s.reg x != s.reg y)) := rfl

/-- The word after the next one, where a skip goes: `nxt + 2 = a + 4` (R148). -/
theorem State.nxt_add_two (s : State) : s.nxt + 2#16 = s.pc + 4#16 := BitVec.add_assoc s.pc 2#16 2#16

/-- PC after a skip, from the skip's own address. -/
theorem State.skipIf_pc_eq (s : State) (b : Bool) : (s.skipIf b).pc = if b then s.pc + 4#16 else s.pc + 2#16 := by
  rw [State.skipIf_pc, State.nxt_add_two, State.nxt]

theorem unchangedBut_skipIf (s : State) (b : Bool) : UnchangedBut [.pc] s (s.skipIf b) :=
  (UnchangedBut.refl _ s).setPc (by simp) _

/-- An instruction that only skips, on a test `b` that decides the condition `c` (R148). -/
theorem exec_of_skipIf {i : Instr} {s : State} {b : Bool} {c : Prop} (h : exec i s = .next (s.skipIf b)) (hc : c ↔ b = true) :
    ∃ t, exec i s = .next t ∧ (c → t.pc = s.pc + 4#16) ∧ (¬ c → t.pc = s.pc + 2#16) ∧ UnchangedBut [.pc] s t := by
  refine ⟨_, h, fun hskip => ?_, fun hstay => ?_, unchangedBut_skipIf s b⟩
  · rw [State.skipIf_pc_eq, if_pos (hc.mp hskip)]
  · rw [State.skipIf_pc_eq, if_neg (mt hc.mpr hstay)]

/-- Settles O40: each of the four is a skip on its own test (R144 to R147). -/
theorem skipsPassOverOneWord : Obligations.SkipsPassOverOneWord := by
  rintro x y kk s i c (⟨rfl, hc⟩ | ⟨rfl, hc⟩ | ⟨rfl, hc⟩ | ⟨rfl, hc⟩)
  · exact exec_of_skipIf (exec_seByte x kk s) (hc.trans beq_iff_eq.symm)
  · exact exec_of_skipIf (exec_sneByte x kk s) (hc.trans bne_iff_ne.symm)
  · exact exec_of_skipIf (exec_seReg x y s) (hc.trans beq_iff_eq.symm)
  · exact exec_of_skipIf (exec_sneReg x y s) (hc.trans bne_iff_ne.symm)

end Sys2Proof.Machine
end

section
/-! The index register (45_index_memory.md): an instruction that sets I moves PC past its word, and `ADD I, Vx` may then write the
flag. -/

namespace Sys2Proof.Machine

theorem UnchangedBut.setI {ps : List Part} {s t : State} (h : UnchangedBut ps s t) (hi : Part.i ∈ ps) (w : Word) :
    UnchangedBut ps s (t.setI w) := by
  obtain ⟨hmem, hv, -, hrest⟩ := h
  exact ⟨hmem, hv, fun hni => absurd hi hni, hrest⟩

/-- Under the quirk, the flag of the old I is written last (R171). -/
theorem exec_addI_of_flag (x : Reg) {s : State} (h : s.quirks.addIFlag = true) : exec (.addI x) s =
    .next ((s.advance.setI (sumI s.i (s.reg x))).setFlag (addIOverflow s.i (s.reg x))) :=
  congrArg Host.Outcome.next (if_pos h)

/-- Without the quirk, only I and PC are written (R171). -/
theorem exec_addI_of_noFlag (x : Reg) {s : State} (h : s.quirks.addIFlag = false) :
    exec (.addI x) s = .next (s.advance.setI (sumI s.i (s.reg x))) :=
  congrArg Host.Outcome.next (if_neg (ne_true_of_eq_false h))

theorem flagByte_addIOverflow (i : Word) (b : Byte) :
    flagByte (addIOverflow i b) = if i.toNat + b.toNat > 0xFFF then 1#8 else 0#8 :=
  flagByte_decide _

/-- Settles O46: both settings of the quirk write the sum to I and move PC on; the flag is one more write, of VF alone. -/
theorem addToIndexWrapsInSixteenBits : Obligations.AddToIndexWrapsInSixteenBits := by
  intro x s
  have hsum := sumI_toNat s.i (s.reg x)
  have hregs (ds : List Reg) : RegsUnchangedBut ds s (s.advance.setI (sumI s.i (s.reg x))) := regsUnchangedBut_advance ds s
  have hparts : UnchangedBut [.i, .v, .pc] s (s.advance.setI (sumI s.i (s.reg x))) :=
    (unchangedBut_advance s (by simp)).setI (by simp) _
  cases hq : s.quirks.addIFlag with
  | true =>
    have hflag : ((s.advance.setI (sumI s.i (s.reg x))).setFlag (addIOverflow s.i (s.reg x))).reg VF =
        if s.i.toNat + (s.reg x).toNat > 0xFFF then 1#8 else 0#8 := by
      rw [State.reg_setFlag, if_pos rfl, flagByte_addIOverflow]
    exact ⟨_, exec_addI_of_flag x hq, hsum, fun _ => hflag, (hregs [VF]).setReg (by simp) _, rfl,
      hparts.setReg (by simp) VF _⟩
  | false => exact ⟨_, exec_addI_of_noFlag x hq, hsum, fun h => absurd h Bool.false_ne_true, hregs [], rfl, hparts⟩

end Sys2Proof.Machine
end

section
/-! The timers (46_timers.md): what the three timer instructions move, and that no other step writes DT or ST. -/

namespace Sys2Proof.Machine

/-! ### Frames of the two writes -/

theorem UnchangedBut.setDt {ps : List Part} {s t : State} (h : UnchangedBut ps s t) (hdt : Part.dt ∈ ps) (b : Byte) :
    UnchangedBut ps s (t.setDt b) := by
  obtain ⟨hmem, hv, hi, hpc, hstack, hsp, -, hrest⟩ := h
  exact ⟨hmem, hv, hi, hpc, hstack, hsp, fun hndt => absurd hdt hndt, hrest⟩

theorem UnchangedBut.setSt {ps : List Part} {s t : State} (h : UnchangedBut ps s t) (hst : Part.st ∈ ps) (b : Byte) :
    UnchangedBut ps s (t.setSt b) := by
  obtain ⟨hmem, hv, hi, hpc, hstack, hsp, hdt, -, hrest⟩ := h
  exact ⟨hmem, hv, hi, hpc, hstack, hsp, hdt, fun hnst => absurd hst hnst, hrest⟩

/-! ### The timer instructions -/

theorem exec_ldVxDt (x : Reg) (s : State) : exec (.ldVxDt x) s = .next (s.advance.setReg x s.dt) := rfl

theorem exec_ldDtVx (x : Reg) (s : State) : exec (.ldDtVx x) s = .next (s.advance.setDt (s.reg x)) := rfl

theorem exec_ldStVx (x : Reg) (s : State) : exec (.ldStVx x) s = .next (s.advance.setSt (s.reg x)) := rfl

/-- R36, with the test as a proposition. -/
theorem State.soundActive_eq_decide (s : State) : s.soundActive = decide (s.st ≠ 0#8) := by
  rw [State.soundActive, bne, beq_eq_decide, decide_not]

/-- Settles O50: one write of V[x], of DT or of ST, after PC moved past the word (R180 to R182). -/
theorem timerInstructions : Obligations.TimerInstructions := fun x s =>
  ⟨exec_of_setReg (exec_ldVxDt x s),
    ⟨_, exec_ldDtVx x s, rfl, rfl, (unchangedBut_advance s (by simp)).setDt (by simp) (s.reg x)⟩,
    ⟨_, exec_ldStVx x s, rfl, State.soundActive_eq_decide _, rfl,
      (unchangedBut_advance s (by simp)).setSt (by simp) (s.reg x)⟩⟩

/-! ### What keeps both timers -/

/-- The next state that the outcome answers, if it answers one, has the timers of `s`. -/
def KeepsTimers (s : State) (o : Host.Outcome State Fault Refusal) : Prop := ∀ t, o = .next t → t.dt = s.dt ∧ t.st = s.st

theorem keepsTimers_next {s t : State} (hdt : t.dt = s.dt) (hst : t.st = s.st) : KeepsTimers s (.next t) := by
  rintro _ ⟨⟩
  exact ⟨hdt, hst⟩

/-- A fault leaves the timers (R204), so a checked instruction keeps them if its effect does. -/
theorem keepsTimers_whenInBounds {bad : Nat → Bool} {base n : Nat} {s e : State} (hdt : e.dt = s.dt) (hst : e.st = s.st) :
    KeepsTimers s (whenInBounds bad base n s e) := by
  intro t h
  obtain ⟨-, rfl⟩ | ⟨j, -, -, rfl⟩ := whenInBounds_cases h
  · exact ⟨hdt, hst⟩
  · exact ⟨rfl, rfl⟩

/-- A check keeps the timers if both of its answers do: of a call's room on the stack, of an entry to return to (R141, R142). -/
theorem keepsTimers_dite {s : State} {c : Prop} [Decidable c] {a : c → Host.Outcome State Fault Refusal}
    {b : ¬ c → Host.Outcome State Fault Refusal} (ha : ∀ h, KeepsTimers s (a h)) (hb : ∀ h, KeepsTimers s (b h)) :
    KeepsTimers s (dite c a b) := by
  split
  · exact ha _
  · exact hb _

/-- Whether or not it writes the flag (R171). -/
theorem keepsTimers_addI (x : Reg) (s : State) : KeepsTimers s (exec (.addI x) s) := by
  cases hq : s.quirks.addIFlag with
  | true => rw [exec_addI_of_flag x hq]; exact keepsTimers_next rfl rfl
  | false => rw [exec_addI_of_noFlag x hq]; exact keepsTimers_next rfl rfl

/-- Every instruction but the two that set a timer keeps both. -/
theorem keepsTimers_exec {i : Instr} (hdt : ∀ x, i ≠ .ldDtVx x) (hst : ∀ x, i ≠ .ldStVx x) (s : State) :
    KeepsTimers s (exec i s) := by
  cases i with
  | ldDtVx x => exact absurd rfl (hdt x)
  | ldStVx x => exact absurd rfl (hst x)
  | call | ret => exact keepsTimers_dite (fun _ => keepsTimers_next rfl rfl) fun _ => keepsTimers_next rfl rfl
  | drw | ldB | storeRegs | loadRegs => refine keepsTimers_whenInBounds ?_ ?_ <;> simp
  | orReg | andReg | xorReg => exact keepsTimers_next (State.setLogicResult_dt ..) (State.setLogicResult_st ..)
  | addI x => exact keepsTimers_addI x s
  | cls | jp | jpV0 | seByte | sneByte | seReg | sneReg | skp | sknp | ldByte | ldReg | addByte | addReg | subReg | subn
  | shr | shl | rnd | ldI | ldF | ldVxDt | ldVxK => exact keepsTimers_next rfl rfl

/-- A poll of the key-wait writes no timer, whether it ends the wait or not (R164). -/
theorem keyWaitPoll_timers (x : Reg) (prev : Keypad) (s : State) :
    (keyWaitPoll x prev s).dt = s.dt ∧ (keyWaitPoll x prev s).st = s.st := by
  obtain ⟨-, h⟩ | ⟨k, -, h⟩ := keyWaitPoll_cases x prev s
  · rw [h]
    exact ⟨rfl, rfl⟩
  · rw [h]
    exact ⟨rfl, rfl⟩

/-! ### R183 -/

/-- What an executed instruction leaves in the timers: `LD DT, Vx` and `LD ST, Vx` set one each, and no other changes either. -/
theorem timers_of_exec {i : Instr} {s t : State} (h : exec i s = .next t) :
    (t.dt = s.dt ∧ t.st = s.st) ∨ (∃ x, i = .ldDtVx x ∧ t.dt = s.reg x ∧ t.st = s.st) ∨
      ∃ x, i = .ldStVx x ∧ t.dt = s.dt ∧ t.st = s.reg x := by
  by_cases hdt : ∃ x, i = .ldDtVx x
  · obtain ⟨x, rfl⟩ := hdt
    cases h
    exact .inr (.inl ⟨x, rfl, rfl, rfl⟩)
  by_cases hst : ∃ x, i = .ldStVx x
  · obtain ⟨x, rfl⟩ := hst
    cases h
    exact .inr (.inr ⟨x, rfl, rfl, rfl⟩)
  exact .inl (keepsTimers_exec (not_exists.mp hdt) (not_exists.mp hst) s t h)

/-- What a step leaves in the timers: only an instruction it was about to run sets one. -/
theorem timers_of_step {s t : State} (h : step s = .next t) :
    (t.dt = s.dt ∧ t.st = s.st) ∨ (∃ x, s.AboutToRun (.ldDtVx x) ∧ t.dt = s.reg x ∧ t.st = s.st) ∨
      ∃ x, s.AboutToRun (.ldStVx x) ∧ t.dt = s.dt ∧ t.st = s.reg x := by
  obtain ⟨f, -, rfl⟩ | ⟨x, prev, -, rfl⟩ | ⟨f, -, -, rfl⟩ | ⟨i, hi, hexec⟩ := step_cases h
  · exact .inl ⟨rfl, rfl⟩
  · exact .inl (keyWaitPoll_timers x prev s)
  · exact .inl ⟨rfl, rfl⟩
  · obtain hkept | ⟨x, rfl, htimers⟩ | ⟨x, rfl, htimers⟩ := timers_of_exec hexec
    · exact .inl hkept
    · exact .inr (.inl ⟨x, hi, htimers⟩)
    · exact .inr (.inr ⟨x, hi, htimers⟩)

/-- Settles O17: the three ways of a step, each read for DT and for ST. -/
theorem timersKeepTheirValuesAcrossSteps : Obligations.TimersKeepTheirValuesAcrossSteps := by
  intro s t h
  obtain ⟨hdt, hst⟩ | ⟨x, hrun, hdt, hst⟩ | ⟨x, hrun, hdt, hst⟩ := timers_of_step h
  · exact ⟨.inl hdt, .inl hst⟩
  · exact ⟨.inr ⟨x, hrun, hdt⟩, .inl hst⟩
  · exact ⟨.inl hdt, .inr ⟨x, hrun, hst⟩⟩

end Sys2Proof.Machine
end

section
/-! The ROM load (60_exceptions.md): it answers by the length of the ROM alone, and a load writes memory at 0x200 and on and nothing
else. -/

namespace Sys2Proof.Machine

/-! ### The two answers of a load, and of the command that loads (R214, R218) -/

theorem State.load_of_lt (s : State) {rom : List Byte} (h : 3584 < rom.length) : s.load rom = .error .romTooLarge := if_pos h

theorem State.load_of_le (s : State) {rom : List Byte} (h : rom.length ≤ 3584) :
    s.load rom = .ok (s.setMem (Memory.writeBytes s.mem 0x200 rom)) := if_neg h.not_gt

theorem command_reset_of_lt (s : State) {rom : List Byte} (h : 3584 < rom.length) :
    command (.reset rom) s = .next ⟨s, some .romTooLarge⟩ := by
  simp only [command, State.resetWith, State.load_of_lt _ h]

theorem command_reset_of_le (s : State) {rom : List Byte} (h : rom.length ≤ 3584) :
    ∃ u, command (.reset rom) s = .next ⟨u, none⟩ := by
  simp only [command, State.resetWith, State.load_of_le _ h]
  exact ⟨_, rfl⟩

/-! ### What a write of bytes reads as, and its frame -/

/-- The byte at index `j` of those written from `a` on stands at `a + j` (R57). -/
theorem Memory.read_writeBytes_getElem {m : Memory} (hwf : Memory.wf m) {a : Nat} {bs : List Byte}
    (ha : a + bs.length ≤ Config.memSize) {j : Nat} (hj : j < bs.length) :
    Memory.read (Memory.writeBytes m a bs) (a + j) = bs[j] := by
  rw [Memory.read_writeBytes hwf ha, if_pos (Nat.le_add_right a j), Nat.add_sub_cancel_left, List.getD_eq_getElem _ _ hj]

theorem memUnchangedOutside_writeBytes (s : State) (a : Nat) (bs : List Byte) :
    MemUnchangedOutside a bs.length s (s.setMem (Memory.writeBytes s.mem a bs)) :=
  fun _ hout => Memory.read_writeBytes_outside s.mem bs hout

theorem UnchangedBut.setMem {ps : List Part} {s t : State} (h : UnchangedBut ps s t) (hmem : Part.mem ∈ ps) (m : Memory) :
    UnchangedBut ps s (t.setMem m) := by
  obtain ⟨-, hrest⟩ := h
  exact ⟨fun hnmem => absurd hmem hnmem, hrest⟩

/-! ### R218 -/

/-- Settles O54: 3584 bytes from 0x200 on end with memory, so the bytes of a ROM that is not too large all read back. -/
theorem loadCopiesTheRomOrFails : Obligations.LoadCopiesTheRomOrFails := by
  refine fun s rom => ⟨fun hlarge => ⟨s.load_of_lt hlarge, command_reset_of_lt s hlarge⟩, fun hfits => ?_⟩
  have hmem : 0x200 + rom.length ≤ Config.memSize := Nat.add_le_add_left hfits 0x200
  exact ⟨_, s.load_of_le hfits, fun hwf _ hj => Memory.read_writeBytes_getElem hwf hmem hj,
    memUnchangedOutside_writeBytes s 0x200 rom, (UnchangedBut.refl [.mem] s).setMem (by simp) _, command_reset_of_le s hfits⟩

end Sys2Proof.Machine
end

section
/-! The decoder inverts the encoder, and agrees with the opcode table on every word (R71 to R76). -/

namespace Sys2Proof

/-! ### Decoding an encoded instruction -/

theorem decodeOp_encode {i : Instr} (h : i.wellFormed = true) : decodeOp (encode i) = some i := by
  cases i with
  | cls | ret => rfl
  | jp nnn | call nnn | ldI nnn | jpV0 nnn =>
    have hnnn (op : BitVec 4) : fieldNnn (formatNNN op nnn) = nnn := fieldNnn_formatNNN op h
    simp [encode, decodeOp, hnnn]
  | seByte | sneByte | ldByte | addByte | rnd | seReg | sneReg | drw => simp [encode, decodeOp]
  | ldReg | orReg | andReg | xorReg | addReg | subReg | shr | subn | shl => simp [encode, decodeOp, decodeGroup8]
  | skp | sknp => simp [encode, decodeOp, decodeGroupE]
  | ldVxDt | ldVxK | ldDtVx | ldStVx | addI | ldF | ldB | storeRegs | loadRegs => simp [encode, decodeOp, decodeGroupF]

theorem decodeWord_encode {i : Instr} (h : i.wellFormed = true) : decodeWord (encode i) = .ok i :=
  decodeWord_eq_ok.mpr (decodeOp_encode h)

/-- The two bytes of an instruction decode as its word does, whatever follows them (R52, R72). -/
theorem decodeBytes_encodeBytes {i : Instr} (h : i.wellFormed = true) (rest : List Byte) :
    decodeBytes (encodeBytes i ++ rest) = .ok (i, rest) := by
  simp [encodeBytes, decodeBytes, decodeWord_encode h]

/-- Settles O2: each format's fields come back as they were encoded, and the opcode bits select the format's row. -/
theorem decodeOfEncodeIsTheInstruction : Obligations.DecodeOfEncodeIsTheInstruction := fun _ rest h =>
  ⟨decodeWord_encode h, decodeBytes_encodeBytes h rest⟩

/-! ### What decodes is well formed -/

/-- An address operand that was decoded is a field of a word, and so fits in 12 bits (R74). -/
theorem wellFormed_of_decodeOp {w : Word} {i : Instr} (h : decodeOp w = some i) : i.wellFormed = true := by
  have hw : w = encode i := (encode_of_decodeOp h).symm
  subst hw
  cases i with
  | jp nnn | call nnn | ldI nnn | jpV0 nnn =>
    simp [encode, decodeOp] at h
    exact h ▸ addrFits_fieldNnn _
  | _ => rfl

/-- Settles O3: the word is made of the fields that the switch read. -/
theorem encodeOfDecodeIsTheWord : Obligations.EncodeOfDecodeIsTheWord := by
  intro w i h
  have hop : decodeOp w = some i := decodeWord_eq_ok.mp h
  exact ⟨encode_of_decodeOp hop, wellFormed_of_decodeOp hop⟩

/-- Settles O1: the patterns of R76, evaluated. -/
theorem sampleWordsDecodeAsTheTableSays : Obligations.SampleWordsDecodeAsTheTableSays := by
  unfold Obligations.SampleWordsDecodeAsTheTableSays
  decide

/-! ### The switch and the table -/

theorem fieldOp_and (w m : Word) : fieldOp (w &&& m) = fieldOp w &&& fieldOp m := BitVec.extractLsb_and ..

theorem fieldN_and (w m : Word) : fieldN (w &&& m) = fieldN w &&& fieldN m := BitVec.extractLsb_and ..

theorem fieldKk_and (w m : Word) : fieldKk (w &&& m) = fieldKk w &&& fieldKk m := BitVec.extractLsb_and ..

/-- The two words agree in every field that the switch of R75 tests for their opcode. -/
structure SameSelectors (w w' : Word) : Prop where
  op : fieldOp w = fieldOp w'
  word : (fieldOp w').toNat = 0x0 → w = w'
  low : (fieldOp w').toNat = 0x5 ∨ (fieldOp w').toNat = 0x8 ∨ (fieldOp w').toNat = 0x9 → fieldN w = fieldN w'
  byte : 0xE ≤ (fieldOp w').toNat → fieldKk w = fieldKk w'

theorem isSome_decodeGroup8_congr {w w' : Word} (h : fieldN w = fieldN w') :
    (decodeGroup8 w).isSome = (decodeGroup8 w').isSome := by
  unfold decodeGroup8
  rw [h]
  split <;> rfl

theorem isSome_decodeGroupE_congr {w w' : Word} (h : fieldKk w = fieldKk w') :
    (decodeGroupE w).isSome = (decodeGroupE w').isSome := by
  unfold decodeGroupE
  rw [h]
  repeat' split
  all_goals rfl

theorem isSome_decodeGroupF_congr {w w' : Word} (h : fieldKk w = fieldKk w') :
    (decodeGroupF w).isSome = (decodeGroupF w').isSome := by
  unfold decodeGroupF
  rw [h]
  repeat' split
  all_goals rfl

/-- Whether a word decodes depends on the fields that the switch tests, and on no operand. -/
theorem isSome_decodeOp_congr {w w' : Word} (h : SameSelectors w w') : (decodeOp w).isSome = (decodeOp w').isSome := by
  obtain ⟨hop, hword, hlow, hbyte⟩ := h
  unfold decodeOp
  rw [hop]
  split
  case h_1 hk => rw [hword hk]
  case h_6 hk | h_10 hk => rw [hlow (by omega)]; split <;> rfl
  case h_9 hk => exact isSome_decodeGroup8_congr (hlow (by omega))
  case h_15 hk => exact isSome_decodeGroupE_congr (hbyte (by omega))
  case h_16 => exact isSome_decodeGroupF_congr (hbyte (by grind))
  all_goals rfl

/-- The mask of a row keeps every field that the switch tests for the row's opcode, and the row's own pattern decodes. -/
def OpcodeRow.KeepsSelectors (r : OpcodeRow) : Prop :=
  fieldOp r.mask = 0xF#4 ∧
  ((fieldOp r.pattern).toNat = 0x0 → r.mask = 0xFFFF#16) ∧
  ((fieldOp r.pattern).toNat = 0x5 ∨ (fieldOp r.pattern).toNat = 0x8 ∨ (fieldOp r.pattern).toNat = 0x9 → fieldN r.mask = 0xF#4) ∧
  (0xE ≤ (fieldOp r.pattern).toNat → fieldKk r.mask = 0xFF#8) ∧
  (decodeOp r.pattern).isSome = true

theorem keepsSelectors_of_mem : ∀ r ∈ opcodeTable, r.KeepsSelectors := by
  unfold OpcodeRow.KeepsSelectors
  decide

theorem isSome_decodeOp_of_matches {r : OpcodeRow} (hr : r ∈ opcodeTable) {w : Word} (h : r.matches w = true) :
    (decodeOp w).isSome = true := by
  obtain ⟨hop, hword, hlow, hbyte, hpattern⟩ := keepsSelectors_of_mem r hr
  have hw : w &&& r.mask = r.pattern := beq_iff_eq.mp h
  have hsame : SameSelectors w r.pattern := by
    refine ⟨?_, fun hk => ?_, fun hk => ?_, fun hk => ?_⟩
    · rw [← hw, fieldOp_and, hop, and_0xF]
    · rw [← hw, hword hk]
      exact BitVec.and_allOnes.symm
    · rw [← hw, fieldN_and, hlow hk, and_0xF]
    · rw [← hw, fieldKk_and, hbyte hk, and_0xFF]
  rw [isSome_decodeOp_congr hsame, hpattern]

/-- Two rows whose patterns agree on the bits that both masks keep are the same row. -/
theorem rows_disjoint : ∀ r ∈ opcodeTable, ∀ r' ∈ opcodeTable, r.pattern &&& r'.mask = r'.pattern &&& r.mask → r = r' := by
  decide

theorem row_unique {w : Word} {r r' : OpcodeRow} (hr : r ∈ opcodeTable) (hr' : r' ∈ opcodeTable) (h : r.matches w = true)
    (h' : r'.matches w = true) : r = r' := by
  have hw : w &&& r.mask = r.pattern := beq_iff_eq.mp h
  have hw' : w &&& r'.mask = r'.pattern := beq_iff_eq.mp h'
  refine rows_disjoint r hr r' hr' ?_
  rw [← hw, ← hw', BitVec.and_assoc, BitVec.and_assoc, BitVec.and_comm r.mask]

/-- Settles O4: a word that decodes matches its instruction's row, a word that matches a row decodes, and no two rows overlap. -/
theorem switchAgreesWithOpcodeTable : Obligations.SwitchAgreesWithOpcodeTable := by
  refine fun w => ⟨⟨?_, ?_⟩, fun r hr r' hr' => row_unique hr hr', ?_⟩
  · rintro ⟨i, hi⟩
    obtain ⟨r, hr, -, hmatch⟩ := exists_row_of_decodeOp (decodeWord_eq_ok.mp hi)
    exact ⟨r, hr, hmatch⟩
  · rintro ⟨r, hr, hmatch⟩
    obtain ⟨i, hi⟩ := Option.isSome_iff_exists.mp (isSome_decodeOp_of_matches hr hmatch)
    exact ⟨i, decodeWord_eq_ok.mpr hi⟩
  · intro i hi r hr hmatch
    obtain ⟨r', hr', hname, hmatch'⟩ := exists_row_of_decodeOp (decodeWord_eq_ok.mp hi)
    rw [row_unique hr hr' hmatch hmatch', hname]

end Sys2Proof
end

section
/-! Outcomes: a step or an instruction answers one next state. -/

namespace Sys2Proof.Machine

theorem next_unique {σ φ ρ : Type} {o : Host.Outcome σ φ ρ} {t u : σ} (ht : o = .next t) (hu : o = .next u) : t = u :=
  Host.Outcome.next.inj (ht.symm.trans hu)

end Sys2Proof.Machine
end

section
/-! Logic, shifts and random (41_arith_logic.md): what is written to V[x] and VF, bit by bit or as a number. -/

namespace Sys2Proof.Machine

/-! ### Logic -/

theorem exec_orReg (x y : Reg) (s : State) :
    exec (.orReg x y) s = .next (s.advance.setLogicResult x (s.reg x ||| s.reg y)) := rfl

theorem exec_andReg (x y : Reg) (s : State) :
    exec (.andReg x y) s = .next (s.advance.setLogicResult x (s.reg x &&& s.reg y)) := rfl

theorem exec_xorReg (x y : Reg) (s : State) :
    exec (.xorReg x y) s = .next (s.advance.setLogicResult x (s.reg x ^^^ s.reg y)) := rfl

theorem regsUnchangedBut_setLogicResult (s : State) (x : Reg) (r : Byte) :
    RegsUnchangedBut (if s.quirks.logicResetsVf then [x, VF] else [x]) s (s.advance.setLogicResult x r) := by
  intro q hq
  rw [State.reg_setLogicResult, State.advance_quirks, State.advance_reg]
  split at hq <;> simp_all

theorem unchangedBut_setLogicResult (s : State) (x : Reg) (r : Byte) :
    UnchangedBut [.v, .pc] s (s.advance.setLogicResult x r) := by
  have hadv : UnchangedBut [.v, .pc] s s.advance := unchangedBut_advance s (by simp)
  unfold State.setLogicResult
  split
  · exact (hadv.setReg (by simp) x r).setReg (by simp) VF _
  · exact hadv.setReg (by simp) x r

/-- An instruction that ends with a logic result and its reset of VF (R103 to R105). -/
theorem exec_of_setLogicResult {i : Instr} {s : State} {x : Reg} {r : Byte} {p : Nat → Bool}
    (h : exec i s = .next (s.advance.setLogicResult x r)) (hbits : ∀ b, b < 8 → r.getLsbD b = p b) :
    ∃ t, exec i s = .next t ∧ (x ≠ VF ∨ s.quirks.logicResetsVf = false → ∀ b, b < 8 → (t.reg x).getLsbD b = p b) ∧
      (s.quirks.logicResetsVf = true → t.reg VF = 0#8) ∧
      RegsUnchangedBut (if s.quirks.logicResetsVf then [x, VF] else [x]) s t ∧
      t.pc = s.pc + 2#16 ∧ UnchangedBut [.v, .pc] s t := by
  refine ⟨_, h, fun hx b hb => ?_, fun hq => ?_, regsUnchangedBut_setLogicResult s x r, State.setLogicResult_pc ..,
    unchangedBut_setLogicResult s x r⟩
  · have hkeep : ¬ (s.advance.quirks.logicResetsVf = true ∧ x = VF) := by
      rintro ⟨hq, hvf⟩
      exact hx.elim (absurd hvf) (absurd hq ∘ ne_true_of_eq_false)
    rw [State.reg_setLogicResult, if_neg hkeep, if_pos rfl, hbits b hb]
  · rw [State.reg_setLogicResult, if_pos ⟨hq, rfl⟩]

/-- Settles O26: the three results differ in the operation on each bit alone. -/
theorem logicOpsAndTheirVfReset : Obligations.LogicOpsAndTheirVfReset := by
  rintro x y s i op (⟨rfl, rfl⟩ | ⟨rfl, rfl⟩ | ⟨rfl, rfl⟩)
  · exact exec_of_setLogicResult (exec_orReg x y s) fun _ _ => BitVec.getLsbD_or
  · exact exec_of_setLogicResult (exec_andReg x y s) fun _ _ => BitVec.getLsbD_and
  · exact exec_of_setLogicResult (exec_xorReg x y s) fun _ _ => BitVec.getLsbD_xor

/-! ### Shifts -/

theorem exec_shr (x y : Reg) (s : State) :
    exec (.shr x y) s = .next (s.advance.setResultThenFlag x (shiftSource s.quirks (s.reg x) (s.reg y) >>> 1)
      (shiftedOutRight (shiftSource s.quirks (s.reg x) (s.reg y)))) := rfl

theorem exec_shl (x y : Reg) (s : State) :
    exec (.shl x y) s = .next (s.advance.setResultThenFlag x (shiftSource s.quirks (s.reg x) (s.reg y) <<< 1)
      (shiftedOutLeft (shiftSource s.quirks (s.reg x) (s.reg y)))) := rfl

/-- The shift source as the read of one register (R108, R110). -/
theorem shiftSource_eq_reg (s : State) (x y : Reg) :
    shiftSource s.quirks (s.reg x) (s.reg y) = s.reg (if s.quirks.shiftUsesVy then y else x) :=
  (apply_ite s.reg _ y x).symm

theorem flagByte_shiftedOutRight (b : Byte) : (flagByte (shiftedOutRight b)).toNat = b.toNat % 2 := by
  rw [flagByte_toNat, shiftedOutRight, BitVec.getLsbD, Nat.toNat_testBit, pow_zero, Nat.div_one]

theorem flagByte_shiftedOutLeft (b : Byte) : (flagByte (shiftedOutLeft b)).toNat = b.toNat / 128 := by
  have hlt : b.toNat < 256 := b.isLt
  rw [flagByte_toNat, shiftedOutLeft, BitVec.getLsbD, Nat.toNat_testBit]
  omega

/-- Settles O29: a shift by one is a division or a product by 2, and the bit shifted out is what it leaves over. -/
theorem shiftsSetTheBitShiftedOut : Obligations.ShiftsSetTheBitShiftedOut := by
  rintro x y s _ rfl
  constructor
  · obtain ⟨t, ht, hres, hflag, hframe⟩ := exec_of_setResultThenFlag (exec_shr x y s)
    rw [shiftSource_eq_reg] at hres hflag
    exact ⟨t, ht, fun hx => by rw [hres hx, BitVec.toNat_ushiftRight, Nat.shiftRight_one],
      by rw [hflag, flagByte_shiftedOutRight], hframe⟩
  · obtain ⟨t, ht, hres, hflag, hframe⟩ := exec_of_setResultThenFlag (exec_shl x y s)
    rw [shiftSource_eq_reg] at hres hflag
    exact ⟨t, ht, fun hx => by rw [hres hx, BitVec.toNat_shiftLeft, Nat.shiftLeft_eq, pow_one],
      by rw [hflag, flagByte_shiftedOutLeft], hframe⟩

/-! ### Random -/

theorem exec_rnd (x : Reg) (kk : Byte) (s : State) :
    exec (.rnd x kk) s = .next (s.advance.countDraw.setReg x (Config.rand8 s.draws &&& kk)) := rfl

theorem UnchangedBut.countDraw {ps : List Part} {s t : State} (h : UnchangedBut ps s t) (hdraws : Part.draws ∈ ps) :
    UnchangedBut ps s t.countDraw := by
  obtain ⟨hmem, hv, hi, hpc, hstack, hsp, hdt, hst, hfb, hmode, hkeys, -, hquirks⟩ := h
  exact ⟨hmem, hv, hi, hpc, hstack, hsp, hdt, hst, hfb, hmode, hkeys, fun hn => absurd hdraws hn, hquirks⟩

/-- Settles O30: whatever the draw is, it is masked bit by bit and counted. -/
theorem randomIsAFreshDrawMasked : Obligations.RandomIsAFreshDrawMasked := by
  intro x kk s
  have hparts : UnchangedBut [.v, .pc, .draws] s s.advance.countDraw := (unchangedBut_advance s (by simp)).countDraw (by simp)
  refine ⟨_, exec_rnd x kk s, fun b _ => ?_, rfl, (regsUnchangedBut_advance _ s).setReg (by simp) _, rfl,
    hparts.setReg (by simp) x _⟩
  rw [State.reg_setReg, if_pos rfl, BitVec.getLsbD_and]

end Sys2Proof.Machine
end

section
/-! Jumps with an offset, returns, and the round trip of a call (43_control.md). -/

namespace Sys2Proof.Machine

/-! ### Jump with an offset -/

theorem exec_jpV0 (nnn : Word) (s : State) :
    exec (.jpV0 nnn) s = .next (s.setPc (nnn + (s.reg (jumpOffsetReg s.quirks nnn)).setWidth 16)) := rfl

/-- The register of the offset by its number, `nnn[11:8]` under the quirk (R143). -/
theorem jumpOffsetReg_eq (q : Quirks) (nnn : Word) :
    jumpOffsetReg q nnn = if q.jumpVx then ⟨nnn.toNat / 256 % 16, Nat.mod_lt _ (by decide)⟩ else 0 := by
  unfold jumpOffsetReg
  split
  · apply Fin.ext
    simp [Nat.shiftRight_eq_div_pow]
  · rfl

/-- A 12-bit address plus a byte stays below 2 ^ 16, so the sum is not reduced (R143). -/
theorem toNat_addr_add_byte {nnn : Word} (h : addrFits nnn = true) (b : Byte) :
    (nnn + b.setWidth 16).toNat = nnn.toNat + b.toNat := by
  have hnnn : nnn.toNat ≤ 0xFFF := of_decide_eq_true h
  have hb : b.toNat < 256 := b.isLt
  rw [BitVec.toNat_add, BitVec.toNat_setWidth]
  omega

/-- Settles O36: one write of PC, with a sum that cannot wrap. -/
theorem jumpWithOffset : Obligations.JumpWithOffset := fun nnn s h =>
  ⟨_, exec_jpV0 nnn s, by rw [State.setPc_pc, toNat_addr_add_byte h, jumpOffsetReg_eq], (UnchangedBut.refl _ s).setPc (by simp) _⟩

/-! ### Return -/

/-- With an entry to return to: pop into PC (R142). -/
theorem exec_ret_of_pos {s : State} (h : 0 < s.sp.val) :
    exec .ret s =
      .next ((s.setStack s.stack ⟨s.sp.val - 1, by omega⟩).setPc (s.stackAt ⟨s.sp.val - 1, by omega⟩)) :=
  dif_pos h

/-- With an empty stack, the check fails before any write (R142). -/
theorem exec_ret_of_zero {s : State} (h : s.sp.val = 0) :
    exec .ret s = .next (s.setMode (.faulted (.stackUnderflow s.pc))) :=
  dif_neg (by omega)

/-- All that a return can do. -/
theorem exec_ret_cases {s t : State} (h : exec .ret s = .next t) :
    (∃ hpos : 0 < s.sp.val,
      t = (s.setStack s.stack ⟨s.sp.val - 1, by omega⟩).setPc (s.stackAt ⟨s.sp.val - 1, by omega⟩)) ∨
    (s.sp.val = 0 ∧ t = s.setMode (.faulted (.stackUnderflow s.pc))) := by
  rcases Nat.eq_zero_or_pos s.sp.val with hempty | hpos
  · exact .inr ⟨hempty, next_unique h (exec_ret_of_zero hempty)⟩
  · exact .inl ⟨hpos, next_unique h (exec_ret_of_pos hpos)⟩

theorem UnchangedBut.setSp {ps : List Part} {s t : State} (h : UnchangedBut ps s t) (hsp : Part.sp ∈ ps) (p : Fin 17) :
    UnchangedBut ps s (t.setStack t.stack p) := by
  obtain ⟨hmem, hv, hi, hpc, hstack, -, hrest⟩ := h
  exact ⟨hmem, hv, hi, hpc, hstack, fun hn => absurd hsp hn, hrest⟩

/-- Settles O38: a pop moves SP and PC and leaves the entry in STACK. -/
theorem returnPopsOrUnderflows : Obligations.ReturnPopsOrUnderflows := fun s =>
  ⟨fun h => ⟨_, exec_ret_of_pos h, rfl, rfl, ((UnchangedBut.refl [.sp, .pc] s).setSp (by simp) _).setPc (by simp) _⟩,
    exec_ret_of_zero⟩

/-! ### Call and return -/

/-- All that a call can do. -/
theorem exec_call_cases {nnn : Word} {s t : State} (h : exec (.call nnn) s = .next t) :
    (∃ hroom : s.sp.val < 16, t = (s.setStack (s.stack.set s.sp.val s.nxt hroom) ⟨s.sp.val + 1, by omega⟩).setPc nnn) ∨
    (s.sp.val = 16 ∧ t = s.setMode (.faulted (.stackOverflow s.pc))) := by
  rcases Nat.lt_or_ge s.sp.val 16 with hroom | hfull
  · exact .inl ⟨hroom, next_unique h (exec_call_of_lt nnn hroom)⟩
  · have hsp : s.sp.val = 16 := by omega
    exact .inr ⟨hsp, next_unique h (exec_call_of_full nnn hsp)⟩

/-- Settles O39: the call leaves SP above its entry, which holds `a + 2`; the return takes that entry (R150). -/
theorem callThenReturnRoundTrip : Obligations.CallThenReturnRoundTrip := by
  intro nnn s t t' h hcall hsp hentry
  obtain ⟨u, hu, hpush, -, hcount, -⟩ := (callPushesOrOverflows nnn s).1 h
  obtain rfl : u = t := next_unique hu hcall
  have hsp' : t'.sp.val = s.sp.val + 1 := by rw [hsp, hcount]
  refine ⟨_, exec_ret_of_pos (by omega), ?_, Fin.ext ?_⟩
  · simp only [State.setPc_pc, hsp', Nat.add_sub_cancel, hentry, hpush]
  · simp [State.setStack, hsp']

end Sys2Proof.Machine
end

section
/-! The sprite draw (42_display.md): the loop of R131 toggles the pixels that the sprite covers, so it is the XOR of the framebuffer
with the sprite's picture, and collision is that a covered pixel was lit. -/

namespace Sys2Proof.Machine

/-! ### Accesses and their checks -/

theorem badRead_eq_true {a : Nat} : badRead a = true ↔ ¬ ReadOk a := by
  rw [← Bool.not_eq_false, badRead_eq_false]

theorem badWrite_eq_true {q : Quirks} {a : Nat} : badWrite q a = true ↔ ¬ WriteOk q a := by
  rw [← Bool.not_eq_false, badWrite_eq_false]

/-! ### The positions of the loop are the covered pixels -/

/-- Where the lit bits of the sprite that `DRW Vx, Vy, n` draws land, in the order of the loop. -/
def State.spritePixels (s : State) (x y : Reg) (n : Nat) : List (Nat × Nat) :=
  spritePositions s.quirks.drawWrap ((s.reg x).toNat % 64) ((s.reg y).toNat % 32) (Memory.readBytes s.mem s.i.toNat n)

theorem State.drawSprite_eq_toggleAll (s : State) (x y : Reg) (n : Nat) :
    s.drawSprite x y n = toggleAll (s.spritePixels x y n) ⟨s.fb, false⟩ :=
  drawRows_eq_toggleAll ..

theorem State.nodup_spritePixels (s : State) (x y : Reg) (n : Fin 16) : (s.spritePixels x y n.val).Nodup :=
  nodup_spritePositions (by rw [Memory.length_readBytes]; omega)

/-- Where a sprite bit lands is the position that the loop toggles for it. -/
theorem State.spriteBitLands_iff (s : State) (x y : Reg) (r : Fin 16) (c : Fin 8) (row : Fin 32) (col : Fin 64) :
    s.SpriteBitLands x y r c row col ↔ (col.val, row.val) =
      placePixel s.quirks.drawWrap ((s.reg x).toNat % 64 + c.val) ((s.reg y).toNat % 32 + r.val) := by
  unfold State.SpriteBitLands placePixel
  split <;> simp only [Prod.mk.injEq, eq_comm]

theorem State.mem_spritePixels {s : State} {x y : Reg} {n : Fin 16} {row : Fin 32} {col : Fin 64} :
    (col.val, row.val) ∈ s.spritePixels x y n.val ↔ s.SpriteCovers x y n row col := by
  unfold State.spritePixels State.SpriteCovers
  simp only [mem_spritePositions, State.spriteBitLands_iff]
  constructor
  · rintro ⟨r, c, hr, hc, hlit, hpos⟩
    have hrn : r < n.val := by simpa using hr
    rw [Memory.getElem_readBytes _ _ _ _ hrn] at hlit
    exact ⟨⟨r, by omega⟩, ⟨c, hc⟩, hrn, hlit, hpos⟩
  · rintro ⟨r, c, hr, hlit, hpos⟩
    refine ⟨r.val, c.val, by simpa using hr, c.isLt, ?_, hpos⟩
    rw [Memory.getElem_readBytes _ _ _ _ hr]
    exact hlit

/-! ### The draw as a picture -/

/-- Each pixel of the drawing is XORed with whether the sprite covers it (R131). -/
theorem State.drawSprite_pixel (s : State) (x y : Reg) (n : Fin 16) (row : Fin 32) (col : Fin 64) :
    (s.drawSprite x y n.val).fb[row.val].getLsbD col.val =
      (s.pixel row col ^^ decide ((col.val, row.val) ∈ s.spritePixels x y n.val)) := by
  rw [State.drawSprite_eq_toggleAll, toggleAll_pixel (s.nodup_spritePixels x y n), State.pixel]

/-- Collision is that a covered pixel was lit (R133). -/
theorem State.drawSprite_collision (s : State) (x y : Reg) (n : Fin 16) :
    (s.drawSprite x y n.val).collision = true ↔ ∃ row col, s.SpriteCovers x y n row col ∧ s.pixel row col = true := by
  rw [State.drawSprite_eq_toggleAll, toggleAll_collision (s.nodup_spritePixels x y n)]
  simp only [Bool.false_eq_true, false_or, State.mem_spritePixels, State.pixel]

/-! ### The instruction -/

/-- With the sprite in memory: the drawing and its collision flag. -/
theorem exec_drw_of_ok (x y : Reg) {n : Fin 16} {s : State} (h : ∀ r, r < n.val → ReadOk (s.i.toNat + r)) :
    exec (.drw x y n) s =
      .next ((s.advance.setFb (s.drawSprite x y n.val).fb).setFlag (s.drawSprite x y n.val).collision) :=
  whenInBounds_of_ok (fun r hr => badRead_eq_false.mpr (h r hr)) ..

/-- With a sprite byte outside memory, the lowest such address is `max(I, 0x1000)` (R134). -/
theorem exec_drw_of_bad (x y : Reg) {n : Fin 16} {s : State} (h : ∃ r, r < n.val ∧ ¬ ReadOk (s.i.toNat + r)) :
    exec (.drw x y n) s = .next (s.setMode (.faulted (.outOfBoundsAccess s.pc (max s.i.toNat 0x1000)))) := by
  obtain ⟨r, hr, hbad⟩ := h
  have hmax : max s.i.toNat 0x1000 = s.i.toNat + (0x1000 - s.i.toNat) := by omega
  rw [hmax]
  exact whenInBounds_of_bad (by omega) (badRead_eq_true.mpr (by omega)) (fun k hk => badRead_eq_false.mpr (by omega)) ..

/-- What a draw leaves in the framebuffer, in VF and everywhere else (R131 to R133, R136). -/
theorem drawn_of_exec_drw {x y : Reg} {n : Fin 16} {s t : State} (h : ∀ r, r < n.val → ReadOk (s.i.toNat + r))
    (ht : exec (.drw x y n) s = .next t) :
    (∀ row col, (s.SpriteCovers x y n row col → t.pixel row col = !s.pixel row col) ∧
      (¬ s.SpriteCovers x y n row col → t.pixel row col = s.pixel row col)) ∧
    ((∃ row col, s.SpriteCovers x y n row col ∧ s.pixel row col = true) → t.reg VF = 1#8) ∧
    ((∀ row col, s.SpriteCovers x y n row col → s.pixel row col = false) → t.reg VF = 0#8) ∧
    RegsUnchangedBut [VF] s t ∧ t.pc = s.pc + 2#16 ∧ UnchangedBut [.v, .pc, .fb] s t := by
  obtain rfl := next_unique (exec_drw_of_ok x y h) ht
  refine ⟨fun row col => ⟨fun hcov => ?_, fun hcov => ?_⟩, fun hlit => ?_, fun hdark => ?_,
    (regsUnchangedBut_advance _ s).setReg (by simp) _, rfl,
    ((unchangedBut_advance s (by simp)).setFb (by simp) _).setReg (by simp) VF _⟩
  · rw [State.setFlag_pixel, State.pixel_setFb, State.drawSprite_pixel, decide_eq_true (State.mem_spritePixels.mpr hcov),
      Bool.xor_true]
  · rw [State.setFlag_pixel, State.pixel_setFb, State.drawSprite_pixel, decide_eq_false (mt State.mem_spritePixels.mp hcov),
      Bool.xor_false]
  · rw [State.reg_setFlag, if_pos rfl, (State.drawSprite_collision s x y n).mpr hlit, flagByte, if_pos rfl]
  · have hnone : ¬ (s.drawSprite x y n.val).collision = true := by
      rw [State.drawSprite_collision]
      rintro ⟨row, col, hcov, hlit⟩
      exact Bool.false_ne_true ((hdark row col hcov).symm.trans hlit)
    rw [State.reg_setFlag, if_pos rfl, flagByte, if_neg hnone]

/-- Settles O32: the picture when every sprite byte is in memory, and the fault when one is not. -/
theorem drawXorsTheSpriteAndReportsCollision : Obligations.DrawXorsTheSpriteAndReportsCollision := fun x y _ _ =>
  ⟨fun h => ⟨_, exec_drw_of_ok x y h, drawn_of_exec_drw h (exec_drw_of_ok x y h)⟩, exec_drw_of_bad x y⟩

/-- A sprite of no rows makes no check and draws nothing (R135). -/
theorem exec_drw_zero (x y : Reg) (s : State) : exec (.drw x y 0) s = .next (s.advance.setFlag false) := rfl

/-- Settles O33: the flag of no collision is the only write besides PC. -/
theorem drawOfHeightZero : Obligations.DrawOfHeightZero := fun x y s =>
  ⟨_, exec_drw_zero x y s, by simp [flagByte], (regsUnchangedBut_advance _ s).setReg (by simp) _, rfl,
    (unchangedBut_advance s (by simp)).setReg (by simp) VF _⟩

/-! ### Drawing twice -/

/-- A sprite is at the same place in two states that agree in memory, I, configuration and the coordinates. -/
theorem spriteCovers_congr {s t : State} {x y x' y' : Reg} (hmem : ∀ a, t.readByte a = s.readByte a) (hi : t.i = s.i)
    (hquirks : t.quirks = s.quirks) (hx : (t.reg x').toNat % 64 = (s.reg x).toNat % 64)
    (hy : (t.reg y').toNat % 32 = (s.reg y).toNat % 32) (n : Fin 16) (row : Fin 32) (col : Fin 64) :
    t.SpriteCovers x' y' n row col ↔ s.SpriteCovers x y n row col := by
  simp only [State.SpriteCovers, State.spriteBitLands_iff, hmem, hi, hquirks, hx, hy]

/-- Settles O34: the second draw covers the same pixels, so each is inverted twice or not at all (R137). -/
theorem drawingTwiceRestoresTheFramebuffer : Obligations.DrawingTwiceRestoresTheFramebuffer := by
  intro x y x' y' n s t t' u hok ht hmem' hi' hquirks' hpixel' hx hy hu
  obtain ⟨hpixel, -, hdark, -, -, hparts⟩ := drawn_of_exec_drw hok ht
  obtain ⟨hmem, -, hi, -, -, -, -, -, -, -, -, -, hquirks⟩ := hparts
  replace hmem := fun a => (hmem' a).trans (hmem (by simp) a)
  replace hi := hi'.trans (hi (by simp))
  replace hquirks := hquirks'.trans (hquirks (by simp))
  have hcov := spriteCovers_congr hmem hi hquirks hx hy n
  obtain ⟨hpixel₂, hlit₂, hdark₂, -⟩ := drawn_of_exec_drw (fun r hr => hi ▸ hok r hr) hu
  refine ⟨fun row col => ?_, fun hs => ⟨hdark fun row col _ => hs row col, ?_⟩⟩
  · by_cases h : s.SpriteCovers x y n row col
    · rw [(hpixel₂ row col).1 ((hcov row col).mpr h), hpixel', (hpixel row col).1 h, Bool.not_not]
    · rw [(hpixel₂ row col).2 (mt (hcov row col).mp h), hpixel', (hpixel row col).2 h]
  · have hlit : ∀ row col, t.pixel row col = true → s.SpriteCovers x y n row col := by
      intro row col hp
      by_contra h
      exact Bool.false_ne_true ((hs row col).symm.trans (((hpixel row col).2 h).symm.trans hp))
    split
    next hp =>
      obtain ⟨row, col, hp⟩ := hp
      exact hlit₂ ⟨row, col, (hcov row col).mpr (hlit row col hp), (hpixel' row col).trans hp⟩
    next hp => exact hdark₂ fun row col _ => (hpixel' row col).trans (Bool.eq_false_iff.mpr fun h => hp ⟨row, col, h⟩)

end Sys2Proof.Machine
end

section
/-! Keys (44_keypad.md): the key tests skip, and a poll of the key-wait either records the keypad or takes the lowest new key. -/

namespace Sys2Proof.Machine

/-! ### Key tests -/

theorem exec_skp (x : Reg) (s : State) : exec (.skp x) s = .next (s.skipIf (s.key (lowNibble (s.reg x)))) := rfl

theorem exec_sknp (x : Reg) (s : State) : exec (.sknp x) s = .next (s.skipIf (!s.key (lowNibble (s.reg x)))) := rfl

/-- Settles O41: each is a skip on the key that the low nibble names. -/
theorem keySkipsTestTheLowNibblesKey : Obligations.KeySkipsTestTheLowNibblesKey := by
  rintro x s _ rfl
  refine ⟨⟨_, exec_skp x s, State.skipIf_pc_eq .., unchangedBut_skipIf ..⟩, _, exec_sknp x s, ?_, unchangedBut_skipIf ..⟩
  rw [State.skipIf_pc_eq, lowNibble]
  cases s.key ((s.reg x).toNat % 16) <;> rfl

/-! ### The key-wait -/

theorem UnchangedBut.setMode {ps : List Part} {s t : State} (h : UnchangedBut ps s t) (hmode : Part.mode ∈ ps) (m : Mode) :
    UnchangedBut ps s (t.setMode m) := by
  obtain ⟨hmem, hv, hi, hpc, hstack, hsp, hdt, hst, hfb, -, hrest⟩ := h
  exact ⟨hmem, hv, hi, hpc, hstack, hsp, hdt, hst, hfb, fun hn => absurd hmode hn, hrest⟩

theorem exec_ldVxK (x : Reg) (s : State) : exec (.ldVxK x) s = .next (s.setMode (.blocked x s.keys)) := rfl

/-- Settles O42: the wait begins with one write of the mode. -/
theorem keyWaitBeginsBlocked : Obligations.KeyWaitBeginsBlocked := fun x s =>
  ⟨_, exec_ldVxK x s, rfl, (UnchangedBut.refl _ s).setMode (by simp) _⟩

theorem step_of_blocked {s : State} {x : Reg} {prev : Keypad} (h : s.mode = .blocked x prev) :
    step s = .next (keyWaitPoll x prev s) := by
  simp [step, h]

/-- With no new key, the keypad just seen is recorded (R164). -/
theorem step_of_noNewKey {s : State} {x : Reg} {prev : Keypad} (h : s.mode = .blocked x prev)
    (hkeys : ∀ k, k < 16 → s.key k = true → prev.getLsbD k = true) : step s = .next (s.setMode (.blocked x s.keys)) := by
  rw [step_of_blocked h, keyWaitPoll, lowestNewKey_eq_none.mpr hkeys]

/-- The lowest new key's code goes to V[x], and the wait ends (R164, R165). -/
theorem step_of_newKey {s : State} {x : Reg} {prev : Keypad} {k : Nat} (h : s.mode = .blocked x prev)
    (hkey : lowestNewKey s.keys prev = some k) :
    step s = .next ((s.advance.setReg x (BitVec.ofNat 8 k)).setMode .running) := by
  rw [step_of_blocked h, keyWaitPoll, hkey]

/-- Settles O43: the two answers of a poll. -/
theorem keyWaitPollTakesTheLowestNewKey : Obligations.KeyWaitPollTakesTheLowestNewKey := by
  refine fun s x prev h => ⟨step_of_noNewKey h, fun k hk hpressed hnew hlowest => ?_⟩
  have hkey : lowestNewKey s.keys prev = some k := lowestNewKey_eq_some.mpr ⟨hk, hpressed, hnew, hlowest⟩
  have hregs : RegsUnchangedBut [x] s (s.advance.setReg x (BitVec.ofNat 8 k)) :=
    (regsUnchangedBut_advance _ s).setReg (by simp) _
  have hparts : UnchangedBut [.v, .pc, .mode] s (s.advance.setReg x (BitVec.ofNat 8 k)) :=
    (unchangedBut_advance s (by simp)).setReg (by simp) x _
  refine ⟨_, step_of_newKey h hkey, ?_, rfl, rfl, hregs, hparts.setMode (by simp) .running⟩
  rw [State.setMode_reg, State.reg_setReg, if_pos rfl, BitVec.toNat_ofNat]
  omega

/-- Once a poll has recorded the keypad as it stands, every later one finds no new key. -/
theorem step_blocked_fixed (s : State) (x : Reg) :
    step (s.setMode (.blocked x s.keys)) = .next (s.setMode (.blocked x s.keys)) :=
  step_of_noNewKey (State.setMode_mode ..) fun _ _ hpressed => hpressed

/-- Settles O44: the first step records the keypad, and the state it leaves is left by no further step. -/
theorem keyWaitWithoutAPressNeverEnds : Obligations.KeyWaitWithoutAPressNeverEnds := fun s x _ k h hkeys =>
  (State.observedAfter_succ ..).mpr ⟨_, step_of_noNewKey h hkeys, State.observedAfter_of_fixed (step_blocked_fixed s x) k⟩

end Sys2Proof.Machine
end

section
/-! Loads of I, and the instructions that move bytes between memory at I and the registers (45_index_memory.md). -/

namespace Sys2Proof.Machine

/-! ### Loads of the index register -/

theorem exec_ldI (nnn : Word) (s : State) : exec (.ldI nnn) s = .next (s.advance.setI nnn) := rfl

theorem exec_ldF (x : Reg) (s : State) : exec (.ldF x) s = .next (s.advance.setI (glyphAddress (lowNibble (s.reg x)))) := rfl

/-- Settles O45: one write of I each. -/
theorem indexLoadsAndFontAddress : Obligations.IndexLoadsAndFontAddress :=
  ⟨fun nnn s => ⟨_, exec_ldI nnn s, rfl, rfl, (unchangedBut_advance s (by simp)).setI (by simp) _⟩,
    fun x s => ⟨_, exec_ldF x s, glyphAddress_toNat (lowNibble_lt _), rfl, (unchangedBut_advance s (by simp)).setI (by simp) _⟩⟩

/-- All that `ADD I, Vx` can do: the sum to I, and under the quirk the flag after it (R171). -/
theorem exec_addI_cases {x : Reg} {s t : State} (h : exec (.addI x) s = .next t) :
    (s.quirks.addIFlag = true ∧ t = (s.advance.setI (sumI s.i (s.reg x))).setFlag (addIOverflow s.i (s.reg x))) ∨
    t = s.advance.setI (sumI s.i (s.reg x)) := by
  cases hq : s.quirks.addIFlag with
  | true => exact .inl ⟨rfl, next_unique h (exec_addI_of_flag x hq)⟩
  | false => exact .inr (next_unique h (exec_addI_of_noFlag x hq))

/-! ### Checks, in the order in which they are made -/

/-- When the write checks pass, the bytes end within memory. -/
theorem le_memSize_of_writeOk {q : Quirks} {a n : Nat} (hn : 0 < n) (h : ∀ j, j < n → WriteOk q (a + j)) :
    a + n ≤ Config.memSize := by
  obtain ⟨hlast, -⟩ := h (n - 1) (Nat.sub_one_lt_of_lt hn)
  simp only [Config.memSize]
  omega

theorem whenInBounds_of_writeOk {q : Quirks} {a n : Nat} (h : ∀ j, j < n → WriteOk q (a + j)) (s e : State) :
    whenInBounds (badWrite q) a n s e = .next e :=
  whenInBounds_of_ok (fun j hj => badWrite_eq_false.mpr (h j hj)) s e

theorem whenInBounds_of_not_writeOk {q : Quirks} {a n j : Nat} (hj : j < n) (hbad : ¬ WriteOk q (a + j))
    (hlow : ∀ k, k < j → WriteOk q (a + k)) (s e : State) :
    whenInBounds (badWrite q) a n s e = .next (s.setMode (.faulted (.outOfBoundsAccess s.pc (a + j)))) :=
  whenInBounds_of_bad hj (badWrite_eq_true.mpr hbad) (fun k hk => badWrite_eq_false.mpr (hlow k hk)) s e

/-! ### LD B, Vx -/

theorem exec_ldB_of_ok (x : Reg) {s : State} (h : ∀ j, j < 3 → WriteOk s.quirks (s.i.toNat + j)) :
    exec (.ldB x) s = .next (s.advance.setMem (Memory.writeBytes s.mem s.i.toNat (decimalDigits (s.reg x)))) :=
  whenInBounds_of_writeOk h ..

/-- The three digits read back at the addresses they were written to. -/
theorem toNat_read_writeBytes_decimalDigits {m : Memory} (hwf : Memory.wf m) {a : Nat} (ha : a + 3 ≤ Config.memSize) (b : Byte) :
    (Memory.read (Memory.writeBytes m a (decimalDigits b)) a).toNat = b.toNat / 100 ∧
    (Memory.read (Memory.writeBytes m a (decimalDigits b)) (a + 1)).toNat = b.toNat / 10 % 10 ∧
    (Memory.read (Memory.writeBytes m a (decimalDigits b)) (a + 2)).toNat = b.toNat % 10 := by
  have hb : b.toNat < 256 := b.isLt
  have hread : ∀ j (hj : j < 3), Memory.read (Memory.writeBytes m a (decimalDigits b)) (a + j) = (decimalDigits b)[j] :=
    fun j hj => Memory.read_writeBytes_getElem hwf ha hj
  have hread₀ : Memory.read (Memory.writeBytes m a (decimalDigits b)) a = (decimalDigits b)[0] := hread 0 (by omega)
  rw [hread₀, hread 1 (by omega), hread 2 (by omega)]
  simp [decimalDigits]
  omega

/-- Settles O47: three checks, and then the three digits from I on. -/
theorem bcdStoresThreeDigitsOrFaults : Obligations.BcdStoresThreeDigitsOrFaults := fun x s =>
  ⟨fun h => ⟨_, exec_ldB_of_ok x h,
      fun hwf => toNat_read_writeBytes_decimalDigits hwf (le_memSize_of_writeOk (by simp) h) (s.reg x),
      memUnchangedOutside_writeBytes s s.i.toNat (decimalDigits (s.reg x)), rfl,
      (unchangedBut_advance s (by simp)).setMem (by simp) _⟩,
    fun _ hj hbad hlow => whenInBounds_of_not_writeOk hj hbad hlow ..⟩

/-! ### LD [I], Vx -/

theorem exec_storeRegs_of_ok {x : Reg} {s : State} (h : ∀ j, j ≤ x.val → WriteOk s.quirks (s.i.toNat + j)) :
    exec (.storeRegs x) s =
      .next ((s.advance.setMem (Memory.writeBytes s.mem s.i.toNat (s.regsUpTo x))).setI (s.nextI x)) :=
  whenInBounds_of_writeOk (fun j hj => h j (Nat.le_of_lt_succ hj)) ..

/-- The byte of V[r] reads back at `I + r`. -/
theorem read_writeBytes_regsUpTo {s : State} (hwf : Memory.wf s.mem) {x r : Reg} (hr : r ≤ x)
    (h : ∀ j, j ≤ x.val → WriteOk s.quirks (s.i.toNat + j)) :
    Memory.read (Memory.writeBytes s.mem s.i.toNat (s.regsUpTo x)) (s.i.toNat + r.val) = s.reg r := by
  have hlen : r.val < (s.regsUpTo x).length := by rw [State.length_regsUpTo]; exact Nat.lt_succ_of_le hr
  have hmem : s.i.toNat + (s.regsUpTo x).length ≤ Config.memSize := by
    rw [State.length_regsUpTo]
    exact le_memSize_of_writeOk x.val.succ_pos fun j hj => h j (Nat.le_of_lt_succ hj)
  rw [Memory.read_writeBytes_getElem hwf hmem hlen, ← List.getD_eq_getElem _ 0#8 hlen, State.getD_regsUpTo s x r hr]

/-- Settles O48: one check for each register stored, and then their bytes from I on. -/
theorem storeRegistersOrFault : Obligations.StoreRegistersOrFault := by
  refine fun x s => ⟨fun h => ?_, fun _ hj hbad hlow => whenInBounds_of_not_writeOk (Nat.lt_succ_of_le hj) hbad hlow ..⟩
  have hout := memUnchangedOutside_writeBytes s s.i.toNat (s.regsUpTo x)
  rw [State.length_regsUpTo] at hout
  obtain ⟨hlast, -⟩ := h x.val le_rfl
  exact ⟨_, exec_storeRegs_of_ok h, fun hwf _ hr => read_writeBytes_regsUpTo hwf hr h, hout, State.nextI_toNat s x hlast, rfl,
    ((unchangedBut_advance s (by simp)).setMem (by simp) _).setI (by simp) _⟩

/-- Settles O21: a fetch makes two reads of memory after the store, of two bytes that it stored (R65). -/
theorem storedBytesAreFetched : Obligations.StoredBytesAreFetched := by
  intro s t x j hj hwf hok ht
  obtain rfl := next_unique (exec_storeRegs_of_ok hok) ht
  have hx : x.val < 16 := x.isLt
  have hread (r : Reg) (hr : r ≤ x) := read_writeBytes_regsUpTo hwf hr hok
  obtain ⟨hlast, -⟩ := hok x.val le_rfl
  rw [State.setI_mem, State.setMem_mem, Memory.fetchWord_eq, if_pos (by omega), Nat.add_assoc,
    hread ⟨j, by omega⟩ (Fin.le_def.mpr (by simp; omega)), hread ⟨j + 1, by omega⟩ (Fin.le_def.mpr hj)]

/-! ### LD Vx, [I] -/

theorem exec_loadRegs_of_ok {x : Reg} {s : State} (h : ∀ j, j ≤ x.val → ReadOk (s.i.toNat + j)) :
    exec (.loadRegs x) s = .next ((s.advance.setRegs (s.regsFromMemory x)).setI (s.nextI x)) :=
  whenInBounds_of_ok (fun j hj => badRead_eq_false.mpr (h j (Nat.le_of_lt_succ hj))) ..

theorem UnchangedBut.setRegs {ps : List Part} {s t : State} (h : UnchangedBut ps s t) (hv : Part.v ∈ ps) (v : Vector Byte 16) :
    UnchangedBut ps s (t.setRegs v) := by
  obtain ⟨hmem, -, hrest⟩ := h
  exact ⟨hmem, fun hnv => absurd hv hnv, hrest⟩

/-- Settles O49: one check for each register loaded, and then all of V at once. -/
theorem loadRegistersOrFault : Obligations.LoadRegistersOrFault := by
  refine fun x s => ⟨fun h => ?_, fun j hj hbad hlow => ?_⟩
  · refine ⟨_, exec_loadRegs_of_ok h, fun r hr => ?_, fun r hr => ?_, State.nextI_toNat s x (h x.val le_rfl), rfl,
      ((unchangedBut_advance s (by simp)).setRegs (by simp) _).setI (by simp) _⟩
    · rw [State.setI_reg, State.reg_setRegs, State.getElem_regsFromMemory, if_pos hr]
    · rw [State.setI_reg, State.reg_setRegs, State.getElem_regsFromMemory, if_neg (not_le.mpr hr)]
  · exact whenInBounds_of_bad (Nat.lt_succ_of_le hj) (badRead_eq_true.mpr hbad) (fun k hk => badRead_eq_false.mpr (hlow k hk)) ..

end Sys2Proof.Machine
end

section
/-! Fetch and run: what a step in mode Running does with the word at PC (30_encoding.md, 20_memory.md). -/

namespace Sys2Proof.Machine

/-- A step runs the instruction that the state is about to run (R70). -/
theorem step_of_aboutToRun {s : State} {i : Instr} (h : s.AboutToRun i) : step s = exec i s := by
  obtain ⟨hmode, -, -⟩ := id h
  simp [step, hmode, fetchDecode_of_aboutToRun h]

/-- Settles O5: the word is fetched and decoded to the instruction, which runs. -/
theorem stepRunsTheDecodedInstruction : Obligations.StepRunsTheDecodedInstruction := fun _ _ hmode hpc hdec =>
  step_of_aboutToRun ⟨hmode, hpc, hdec⟩

/-- Settles O7: 0xFFE is the last address from which both bytes are in memory. -/
theorem fetchOutsideMemoryFaults : Obligations.FetchOutsideMemoryFaults := by
  refine fun s hmode => ⟨fun hpc => ?_, fun hpc => step_of_fetchDecode_error hmode (fetchDecode_of_gt hpc)⟩
  rw [Memory.fetchWord_eq, if_pos hpc]
  rfl

/-! ### A placed word -/

/-- Two bytes of a word written at an address are the word there (R52). -/
theorem wordOfBytes_read_writeBytes {m : Memory} (hwf : Memory.wf m) {a : Nat} (ha : a ≤ 0xFFE) (w : Word) :
    wordOfBytes (Memory.read (Memory.writeBytes m a [highByte w, lowByte w]) a)
      (Memory.read (Memory.writeBytes m a [highByte w, lowByte w]) (a + 1)) = w := by
  have hread : ∀ j (hj : j < 2), Memory.read (Memory.writeBytes m a [highByte w, lowByte w]) (a + j) = [highByte w, lowByte w][j] :=
    fun j hj => Memory.read_writeBytes_getElem hwf (Nat.add_le_add_right ha 2) hj
  have hread₀ : Memory.read (Memory.writeBytes m a [highByte w, lowByte w]) a = highByte w := hread 0 (by omega)
  have hread₁ : Memory.read (Memory.writeBytes m a [highByte w, lowByte w]) (a + 1) = lowByte w := hread 1 (by omega)
  rw [hread₀, hread₁, wordOfBytes_highByte_lowByte]

/-- A 16-bit word placed from its number is the word at PC, and PC is where a word can be fetched. -/
theorem aboutToRun_withFetchWord {s : State} {w : Word} {i : Instr} (hwf : Memory.wf s.mem) (h : decodeWord w = .ok i) :
    (s.withFetchWord 16 w.toNat).AboutToRun i := by
  have hword : BitVec.ofNat 16 (w.toNat % 2 ^ 16) = w := by rw [Nat.mod_eq_of_lt w.isLt, BitVec.ofNat_toNat, BitVec.setWidth_eq]
  have hpc : (if s.pc.toNat ≤ 0xFFE then s.pc else BitVec.ofNat 16 Config.programBase).toNat ≤ 0xFFE := by
    split
    · assumption
    · decide
  refine ⟨rfl, hpc, ?_⟩
  unfold State.wordAt State.readByte State.withFetchWord
  rw [hword, wordOfBytes_read_writeBytes hwf hpc, h]

/-- Settles O6: the placed word is the one that the next step fetches. -/
theorem placedWordIsTheNextInstruction : Obligations.PlacedWordIsTheNextInstruction := fun _ _ _ hwf h =>
  step_of_aboutToRun (aboutToRun_withFetchWord hwf h)

end Sys2Proof.Machine
end

section
/-! The tick (60_exceptions.md): both timers count down by one and stop at 0, in every mode but Faulted. -/

namespace Sys2Proof.Machine

theorem toNat_countDown (b : Byte) : (countDown b).toNat = b.toNat - 1 := by
  unfold countDown
  split
  next h => rw [h]; rfl
  next h =>
    have hpos : b.toNat ≠ 0 := fun h0 => h (BitVec.eq_of_toNat_eq h0)
    have hle : 1#8 ≤ b := BitVec.le_def.mpr (Nat.one_le_iff_ne_zero.mpr hpos)
    rw [BitVec.toNat_sub_of_le hle]
    rfl

theorem State.tick_of_notFaulted {s : State} (h : ∀ f, s.mode ≠ .faulted f) :
    s.tick = (s.setDt (countDown s.dt)).setSt (countDown s.st) := by
  unfold State.tick
  split
  next f hf => exact absurd hf (h f)
  next => rfl
  next => rfl

theorem State.tick_of_faulted {s : State} {f : FaultRecord} (h : s.mode = .faulted f) : s.tick = s := by
  simp [State.tick, h]

@[simp] theorem State.tick_mode (s : State) : s.tick.mode = s.mode := by
  unfold State.tick
  split <;> rfl

/-- Settles O51: each timer counts down by itself, and a faulted machine does not tick. -/
theorem tickCountsBothTimersDown : Obligations.TickCountsBothTimersDown := by
  refine fun s => ⟨fun h => ?_, fun f => State.tick_of_faulted⟩
  rw [State.tick_of_notFaulted h]
  exact ⟨toNat_countDown s.dt, toNat_countDown s.st, ((UnchangedBut.refl _ s).setDt (by simp) _).setSt (by simp) _⟩

/-- After any number of ticks the machine is not faulted and both timers are lower by that number, or 0 (R212). -/
theorem timers_iterate_tick {s : State} (h : ∀ f, s.mode ≠ .faulted f) (k : Nat) :
    (∀ f, (State.tick^[k] s).mode ≠ .faulted f) ∧ (State.tick^[k] s).dt.toNat = s.dt.toNat - k ∧
      (State.tick^[k] s).st.toNat = s.st.toNat - k := by
  induction k with
  | zero => exact ⟨h, rfl, rfl⟩
  | succ k ih =>
    obtain ⟨hmode, hdt, hst⟩ := ih
    rw [Function.iterate_succ_apply', State.tick_of_notFaulted hmode]
    refine ⟨hmode, ?_, ?_⟩
    · rw [State.setSt_dt, State.setDt_dt, toNat_countDown, hdt, Nat.sub_sub]
    · rw [State.setSt_st, toNat_countDown, hst, Nat.sub_sub]

/-- A timer that is `N - k` after `k` ticks is 0 after `N + 1`. -/
theorem decays_of_toNat_eq_sub {timer : Nat → Byte} {N : Nat} (h : ∀ k, (timer k).toNat = N - k) :
    (∀ k, k ≤ N → (timer k).toNat = N - k) ∧ timer (N + 1) = 0#8 :=
  ⟨fun k _ => h k, BitVec.eq_of_toNat_eq ((h (N + 1)).trans (Nat.sub_eq_zero_of_le N.le_succ))⟩

/-- Settles O52: the instruction loads the timer and leaves the mode, so every tick after it counts down. -/
theorem timersDecayToZeroAndStay : Obligations.TimersDecayToZeroAndStay := by
  rintro x s t _ h rfl -
  refine ⟨fun ht => ?_, fun ht => ?_⟩
  · obtain rfl := next_unique (exec_ldDtVx x s) ht
    refine decays_of_toNat_eq_sub (timer := fun k => (State.tick^[k] _).dt) fun k => ?_
    obtain ⟨-, hdt, -⟩ := timers_iterate_tick (s := s.advance.setDt (s.reg x)) h k
    exact hdt
  · obtain rfl := next_unique (exec_ldStVx x s) ht
    refine decays_of_toNat_eq_sub (timer := fun k => (State.tick^[k] _).st) fun k => ?_
    obtain ⟨-, -, hst⟩ := timers_iterate_tick (s := s.advance.setSt (s.reg x)) h k
    exact hst

end Sys2Proof.Machine
end

section
/-! Reset (70_reset_and_hazards.md): the reset state with the ROM written at 0x200. -/

namespace Sys2Proof.Machine

/-- A reset that succeeds had a ROM that fits, and answers the reset state with that ROM in memory; what is no part of `S` is
kept (R230, R231). -/
theorem State.resetWith_cases {s t : State} {rom : List Byte} (h : s.resetWith rom = .ok t) :
    rom.length ≤ 3584 ∧ t = { State.reset with
      mem := Memory.writeBytes [] 0x200 rom, keys := s.keys, draws := s.draws, quirks := s.quirks } := by
  unfold State.resetWith at h
  rcases Nat.lt_or_ge 3584 rom.length with hlarge | hfits
  · rw [State.load_of_lt _ hlarge] at h
    cases h
  · rw [State.load_of_le _ hfits] at h
    cases h
    exact ⟨hfits, rfl⟩

theorem Memory.wf_nil : Memory.wf [] := Memory.wf_reset

/-- The font is what its addresses read as unlisted (R56). -/
theorem Memory.unlisted_font (j : Nat) : Memory.unlisted (0x050 + j) = fontData.getD j 0#8 := by
  rw [Memory.unlisted, if_neg (by simp), Nat.add_sub_cancel_left]

/-- Outside the font, an unlisted address reads as 0 (R37). -/
theorem Memory.unlisted_eq_zero {a : Nat} (h : a < 0x050 ∨ 0x0A0 ≤ a) : Memory.unlisted a = 0#8 := by
  unfold Memory.unlisted
  split
  next => rfl
  next hbase =>
    have hlen : fontData.length ≤ a - Config.fontBase := Nat.le_sub_of_add_le (h.resolve_left hbase)
    rw [List.getD_eq_getElem?_getD, List.getElem?_eq_none hlen, Option.getD_none]

/-- Settles O53: the ROM reads back where it was written, and every other address as unlisted. -/
theorem resetValues : Obligations.ResetValues := by
  intro s t rom h
  obtain ⟨hfits, rfl⟩ := State.resetWith_cases h
  have hout (a : Nat) (ha : a < 0x200 ∨ 0x200 + rom.length ≤ a) :
      Memory.read (Memory.writeBytes [] 0x200 rom) a = Memory.unlisted a := Memory.read_writeBytes_outside [] rom ha
  refine ⟨rfl, fun j hj => ?_, fun j hj => ?_, fun a ha => ?_, fun r => ?_, rfl, rfl, fun j => ?_, rfl, rfl, fun r c => ?_, rfl⟩
  · exact (hout _ (by omega)).trans (Memory.unlisted_font j)
  · exact Memory.read_writeBytes_getElem Memory.wf_nil (Nat.add_le_add_left hfits 0x200) hj
  · exact (hout a (by omega)).trans (Memory.unlisted_eq_zero (by omega))
  · simp [State.reg, State.reset]
  · simp [State.stackAt, State.reset]
  · simp [State.pixel, State.reset]

end Sys2Proof.Machine
end

section
/-! What an executed instruction can do, said once: it takes the one fault that it can raise, or it writes no part but those listed
for it (R70, R204 to R207). What a step can do follows. -/

namespace Sys2Proof.Machine

/-! ### Frames, part by part -/

/-- Every part but the listed ones is the same, as the state holds it. (`UnchangedBut` compares by reads.) -/
structure SameBut (ps : List Part) (s t : State) : Prop where
  mem : Part.mem ∉ ps → t.mem = s.mem
  v : Part.v ∉ ps → t.v = s.v
  i : Part.i ∉ ps → t.i = s.i
  pc : Part.pc ∉ ps → t.pc = s.pc
  stack : Part.stack ∉ ps → t.stack = s.stack
  sp : Part.sp ∉ ps → t.sp = s.sp
  dt : Part.dt ∉ ps → t.dt = s.dt
  st : Part.st ∉ ps → t.st = s.st
  fb : Part.fb ∉ ps → t.fb = s.fb
  mode : Part.mode ∉ ps → t.mode = s.mode
  keys : Part.keys ∉ ps → t.keys = s.keys
  draws : Part.draws ∉ ps → t.draws = s.draws
  quirks : Part.quirks ∉ ps → t.quirks = s.quirks

theorem sameBut_setMode (s : State) (m : Mode) : SameBut [.mode] s (s.setMode m) := by
  constructor <;> simp

/-! ### What an instruction may write, and the fault it may take -/

/-- The parts that an instruction may write when it raises no fault. -/
def writtenParts (q : Quirks) : Instr → List Part
  | .jp _ | .jpV0 _ | .seByte _ _ | .sneByte _ _ | .seReg _ _ | .sneReg _ _ | .skp _ | .sknp _ => [.pc]
  | .ldByte _ _ | .addByte _ _ | .ldReg _ _ | .orReg _ _ | .andReg _ _ | .xorReg _ _ | .addReg _ _ | .subReg _ _
  | .shr _ _ | .subn _ _ | .shl _ _ | .ldVxDt _ => [.pc, .v]
  | .rnd _ _ => [.pc, .v, .draws]
  | .cls => [.pc, .fb]
  | .drw _ _ _ => [.pc, .v, .fb]
  | .call _ => [.pc, .sp, .stack]
  | .ret => [.pc, .sp]
  | .ldVxK _ => [.mode]
  | .ldDtVx _ => [.pc, .dt]
  | .ldStVx _ => [.pc, .st]
  | .ldI _ | .ldF _ => [.pc, .i]
  | .addI _ => [.pc, .v, .i]
  | .ldB _ => [.pc, .mem]
  | .storeRegs _ => [.pc, .mem] ++ if q.loadStoreIncrementsI then [.i] else []
  | .loadRegs _ => [.pc, .v] ++ if q.loadStoreIncrementsI then [.i] else []

/-- The fault that an instruction raises in the state, and its cause (R206, R207). -/
inductive Raises (s : State) : Instr → FaultRecord → Prop
  | call (nnn : Word) (h : s.sp.val = 16) : Raises s (.call nnn) (.stackOverflow s.pc)
  | ret (h : s.sp.val = 0) : Raises s .ret (.stackUnderflow s.pc)
  | drw (x y : Reg) (n : Fin 16) {a : Nat} (h : ¬ ReadOk a) : Raises s (.drw x y n) (.outOfBoundsAccess s.pc a)
  | loadRegs (x : Reg) {a : Nat} (h : ¬ ReadOk a) : Raises s (.loadRegs x) (.outOfBoundsAccess s.pc a)
  | ldB (x : Reg) {a : Nat} (h : ¬ WriteOk s.quirks a) : Raises s (.ldB x) (.outOfBoundsAccess s.pc a)
  | storeRegs (x : Reg) {a : Nat} (h : ¬ WriteOk s.quirks a) : Raises s (.storeRegs x) (.outOfBoundsAccess s.pc a)

/-- How the execution of `i` from `s` may end: with the fault it raises and nothing but the mode changed, or with no part changed
but those it writes. -/
inductive Ends (i : Instr) (s : State) : State → Prop
  | fault {f : FaultRecord} (hf : Raises s i f) : Ends i s (s.setMode (.faulted f))
  | effect {t : State} (hkept : SameBut (writtenParts s.quirks i) s t) : Ends i s t

theorem ends_whenInBounds {i : Instr} {bad : Nat → Bool} {base n : Nat} {s e : State}
    (hf : ∀ a, bad a = true → Raises s i (.outOfBoundsAccess s.pc a)) (he : SameBut (writtenParts s.quirks i) s e) :
    ∃ t, whenInBounds bad base n s e = .next t ∧ Ends i s t := by
  have hnext : ∃ t, whenInBounds bad base n s e = .next t := by
    unfold whenInBounds
    split <;> exact ⟨_, rfl⟩
  obtain ⟨t, ht⟩ := hnext
  obtain ⟨-, rfl⟩ | ⟨j, -, hbad, rfl⟩ := whenInBounds_cases ht
  · exact ⟨_, ht, .effect he⟩
  · exact ⟨_, ht, .fault (hf _ hbad)⟩

/-- Every instruction answers a next state, and ends in one of the two ways. -/
theorem exec_ends (i : Instr) (s : State) : ∃ t, exec i s = .next t ∧ Ends i s t := by
  cases i with
  | call nnn =>
    rcases Nat.lt_or_ge s.sp.val 16 with hroom | hfull
    · exact ⟨_, exec_call_of_lt nnn hroom, .effect (by constructor <;> simp [writtenParts])⟩
    · have hsp : s.sp.val = 16 := by omega
      exact ⟨_, exec_call_of_full nnn hsp, .fault (.call nnn hsp)⟩
  | ret =>
    rcases Nat.eq_zero_or_pos s.sp.val with hempty | hpos
    · exact ⟨_, exec_ret_of_zero hempty, .fault (.ret hempty)⟩
    · exact ⟨_, exec_ret_of_pos hpos, .effect (by constructor <;> simp [writtenParts])⟩
  | drw x y n =>
    exact ends_whenInBounds (fun _ hbad => .drw x y n (badRead_eq_true.mp hbad)) (by constructor <;> simp [writtenParts])
  | ldB x =>
    exact ends_whenInBounds (fun _ hbad => .ldB x (badWrite_eq_true.mp hbad)) (by constructor <;> simp [writtenParts])
  | storeRegs x =>
    refine ends_whenInBounds (fun _ hbad => .storeRegs x (badWrite_eq_true.mp hbad)) ?_
    cases hq : s.quirks.loadStoreIncrementsI <;> constructor <;> simp [writtenParts, State.nextI, hq]
  | loadRegs x =>
    refine ends_whenInBounds (fun _ hbad => .loadRegs x (badRead_eq_true.mp hbad)) ?_
    cases hq : s.quirks.loadStoreIncrementsI <;> constructor <;> simp [writtenParts, State.nextI, hq]
  | addI x =>
    cases hq : s.quirks.addIFlag with
    | true => exact ⟨_, exec_addI_of_flag x hq, .effect (by constructor <;> simp [writtenParts])⟩
    | false => exact ⟨_, exec_addI_of_noFlag x hq, .effect (by constructor <;> simp [writtenParts])⟩
  | orReg | andReg | xorReg => exact ⟨_, rfl, .effect (by constructor <;> simp [writtenParts])⟩
  | rnd => exact ⟨_, rfl, .effect (by constructor <;> simp [writtenParts, randomMasked])⟩
  | cls | jp | jpV0 | seByte | sneByte | seReg | sneReg | skp | sknp | ldByte | ldReg | addByte | addReg | subReg | subn
  | shr | shl | ldI | ldF | ldVxDt | ldDtVx | ldStVx | ldVxK =>
    exact ⟨_, rfl, .effect (by constructor <;> simp [writtenParts])⟩

theorem ends_of_exec {i : Instr} {s t : State} (h : exec i s = .next t) : Ends i s t := by
  obtain ⟨u, hu, hends⟩ := exec_ends i s
  obtain rfl := next_unique h hu
  exact hends

end Sys2Proof.Machine
end

section
/-! Faults, modes and who writes what, from the two ways in which an instruction ends. -/

namespace Sys2Proof.Machine

/-! ### The writers of each part -/

theorem mode_mem_writtenParts {q : Quirks} {i : Instr} : Part.mode ∈ writtenParts q i ↔ ∃ x, i = .ldVxK x := by
  cases i <;> simp [writtenParts]

theorem stack_mem_writtenParts {q : Quirks} {i : Instr} : Part.stack ∈ writtenParts q i ↔ ∃ nnn, i = .call nnn := by
  cases i <;> simp [writtenParts]

theorem sp_mem_writtenParts {q : Quirks} {i : Instr} : Part.sp ∈ writtenParts q i ↔ i = .ret ∨ ∃ nnn, i = .call nnn := by
  cases i <;> simp [writtenParts]

theorem fb_mem_writtenParts {q : Quirks} {i : Instr} :
    Part.fb ∈ writtenParts q i ↔ i = .cls ∨ ∃ x y n, i = .drw x y n := by
  cases i <;> simp [writtenParts]

theorem mem_mem_writtenParts {q : Quirks} {i : Instr} :
    Part.mem ∈ writtenParts q i ↔ (∃ x, i = .ldB x) ∨ ∃ x, i = .storeRegs x := by
  cases i <;> simp [writtenParts]

theorem i_mem_writtenParts {q : Quirks} {i : Instr} : Part.i ∈ writtenParts q i ↔
    (∃ nnn, i = .ldI nnn) ∨ (∃ x, i = .addI x) ∨ (∃ x, i = .ldF x) ∨
      (q.loadStoreIncrementsI = true ∧ ((∃ x, i = .storeRegs x) ∨ ∃ x, i = .loadRegs x)) := by
  cases i <;> simp [writtenParts]

theorem keys_notMem_writtenParts (q : Quirks) (i : Instr) : Part.keys ∉ writtenParts q i := by
  cases i <;> simp [writtenParts]

theorem quirks_notMem_writtenParts (q : Quirks) (i : Instr) : Part.quirks ∉ writtenParts q i := by
  cases i <;> simp [writtenParts]

/-! ### Faults of an instruction -/

theorem Raises.pc_eq {s : State} {i : Instr} {f : FaultRecord} (h : Raises s i f) : f.pc = s.pc := by
  cases h <;> rfl

theorem notFaulted_of_running {s : State} (h : s.mode = .running) (f : FaultRecord) : s.mode ≠ .faulted f := by
  simp [h]

/-- An instruction that ends faulted where it did not begin so raised that fault and changed nothing but the mode. -/
theorem raises_of_exec {i : Instr} {s t : State} {f : FaultRecord} (hs : ∀ g, s.mode ≠ .faulted g) (h : exec i s = .next t)
    (hf : t.mode = .faulted f) : Raises s i f ∧ t = s.setMode (.faulted f) := by
  cases ends_of_exec h with
  | fault hraises =>
    cases hf
    exact ⟨hraises, rfl⟩
  | effect hkept =>
    by_cases hmode : Part.mode ∈ writtenParts s.quirks i
    · obtain ⟨x, rfl⟩ := mode_mem_writtenParts.mp hmode
      cases h
      cases hf
    · exact absurd ((hkept.mode hmode).symm.trans hf) (hs f)

/-- Settles O11: one case for each of the six ways to raise a fault. -/
theorem onlySixInstructionsFaultEachForOneCause : Obligations.OnlySixInstructionsFaultEachForOneCause := by
  intro i s t f hs h hf
  obtain ⟨hraises, -⟩ := raises_of_exec hs h hf
  cases hraises with
  | call nnn hsp => exact .inl ⟨⟨nnn, rfl⟩, rfl, hsp⟩
  | ret hsp => exact .inr (.inl ⟨rfl, rfl, hsp⟩)
  | drw x y n ha => exact .inr (.inr ⟨_, rfl, .inl ⟨⟨x, y, n, rfl⟩, ha⟩⟩)
  | loadRegs x ha => exact .inr (.inr ⟨_, rfl, .inr (.inl ⟨⟨x, rfl⟩, ha⟩)⟩)
  | ldB x ha => exact .inr (.inr ⟨_, rfl, .inr (.inr (.inl ⟨⟨x, rfl⟩, ha⟩))⟩)
  | storeRegs x ha => exact .inr (.inr ⟨_, rfl, .inr (.inr (.inr ⟨⟨x, rfl⟩, ha⟩))⟩)

/-! ### Faults of a step -/

theorem fetchDecode_error_pc {s : State} {f : FaultRecord} (h : fetchDecode s = .error f) : f.pc = s.pc := by
  obtain ⟨-, rfl⟩ | ⟨-, -, rfl⟩ := fetchDecode_error h <;> rfl

theorem keyWaitPoll_notFaulted (x : Reg) (prev : Keypad) (s : State) (f : FaultRecord) : (keyWaitPoll x prev s).mode ≠ .faulted f := by
  obtain ⟨-, h⟩ | ⟨k, -, h⟩ := keyWaitPoll_cases x prev s <;> simp [h]

/-- Settles O9: a fault is raised by the fetch, by the decoder or by the instruction, each before any write. -/
theorem faultsArePrecise : Obligations.FaultsArePrecise := by
  intro s t f h hf
  obtain ⟨g, hg, rfl⟩ | ⟨x, prev, -, rfl⟩ | ⟨g, -, hg, rfl⟩ | ⟨i, ⟨hmode, -⟩, hexec⟩ := step_cases h
  · refine ⟨?_, fun hs => absurd hg (hs g)⟩
    rw [← hf]
  · exact absurd hf (keyWaitPoll_notFaulted x prev s f)
  · cases hf
    exact ⟨rfl, fun _ => fetchDecode_error_pc hg⟩
  · obtain ⟨hraises, ht⟩ := raises_of_exec (notFaulted_of_running hmode) hexec hf
    exact ⟨ht, fun _ => hraises.pc_eq⟩

theorem step_of_faulted {s : State} {f : FaultRecord} (h : s.mode = .faulted f) : step s = .next s := by
  simp [step, h, stepFaulted]

theorem command_step {s t : State} (h : step s = .next t) : command .step s = .next ⟨t, none⟩ := by
  simp [command, h]

/-- Settles O10: a step, a tick and a keypad update leave the mode, so the command that does not is the reset. -/
theorem faultedIsTerminal : Obligations.FaultedIsTerminal := by
  refine fun s f h => ⟨State.observedAfter_of_fixed (step_of_faulted h), State.tick_of_faulted h, fun c a ha hleft => ?_⟩
  cases c with
  | step =>
    rw [command_step (step_of_faulted h)] at ha
    cases ha
    exact absurd h hleft
  | tick =>
    cases ha
    exact absurd ((State.tick_mode s).trans h) hleft
  | keys k =>
    cases ha
    exact absurd h hleft
  | reset rom => exact ⟨rom, rfl⟩

/-! ### Every step answers -/

theorem exists_step (s : State) : ∃ t, step s = .next t := by
  cases hmode : s.mode with
  | faulted f => exact ⟨s, step_of_faulted hmode⟩
  | blocked x prev => exact ⟨_, step_of_blocked hmode⟩
  | running =>
    cases hfetch : fetchDecode s with
    | error f => exact ⟨_, step_of_fetchDecode_error hmode hfetch⟩
    | ok i =>
      obtain ⟨t, ht, -⟩ := exec_ends i s
      refine ⟨t, ?_⟩
      simp only [step, hmode, hfetch, ht]

/-- Settles O12: every instruction ends, and a fault is one of its ends. -/
theorem everyStepAnswersANextState : Obligations.EveryStepAnswersANextState := by
  refine fun s => ⟨exists_step s, fun c => ?_⟩
  cases c with
  | step =>
    obtain ⟨t, ht⟩ := exists_step s
    exact ⟨_, command_step ht⟩
  | tick | keys => exact ⟨_, rfl⟩
  | reset rom =>
    rcases Nat.lt_or_ge 3584 rom.length with hlarge | hfits
    · exact ⟨_, command_reset_of_lt s hlarge⟩
    · obtain ⟨u, hu⟩ := command_reset_of_le s hfits
      exact ⟨_, hu⟩

/-! ### Modes -/

/-- Of the instructions, only the key-wait leads to mode Blocked, and it records the keypad (R162, R167). -/
theorem blocked_of_exec {i : Instr} {s t : State} {x : Reg} {prev : Keypad} (hs : s.mode = .running) (h : exec i s = .next t)
    (ht : t.mode = .blocked x prev) : i = .ldVxK x ∧ t = s.setMode (.blocked x s.keys) ∧ prev = s.keys := by
  cases ends_of_exec h with
  | fault => cases ht
  | effect hkept =>
    by_cases hmode : Part.mode ∈ writtenParts s.quirks i
    · obtain ⟨y, rfl⟩ := mode_mem_writtenParts.mp hmode
      cases h
      cases ht
      exact ⟨rfl, rfl, rfl⟩
    · rw [hkept.mode hmode, hs] at ht
      cases ht

/-- A step from Running to Blocked is the key-wait (R167). -/
theorem aboutToRun_of_blocks {s t : State} {x : Reg} {prev : Keypad} (h : step s = .next t) (hs : s.mode = .running)
    (ht : t.mode = .blocked x prev) : s.AboutToRun (.ldVxK x) ∧ prev = s.keys := by
  obtain ⟨f, hf, -⟩ | ⟨y, p, hb, -⟩ | ⟨f, -, -, rfl⟩ | ⟨i, hi, hexec⟩ := step_cases h
  · cases hs.symm.trans hf
  · cases hs.symm.trans hb
  · cases ht
  · obtain ⟨rfl, -, hprev⟩ := blocked_of_exec hs hexec ht
    exact ⟨hi, hprev⟩

/-- A step from Blocked ends the wait on a new key and otherwise goes on waiting (R164, R167). -/
theorem mode_of_poll {s t : State} {x : Reg} {prev : Keypad} (h : step s = .next t) (hs : s.mode = .blocked x prev) :
    (t.mode = .running ∧ ∃ k, k < 16 ∧ s.key k = true ∧ prev.getLsbD k = false) ∨
      (t.mode = .blocked x s.keys ∧ ∀ k, k < 16 → s.key k = true → prev.getLsbD k = true) := by
  obtain rfl := next_unique (step_of_blocked hs) h
  obtain ⟨hnone, hpoll⟩ | ⟨k, hkey, hpoll⟩ := keyWaitPoll_cases x prev s
  · rw [hpoll]
    exact .inr ⟨rfl, lowestNewKey_eq_none.mp hnone⟩
  · obtain ⟨hk, hpressed, hnew, -⟩ := lowestNewKey_eq_some.mp hkey
    rw [hpoll]
    exact .inl ⟨rfl, k, hk, hpressed, hnew⟩

/-- A step ends faulted only from Running, or where it began so (R167, R205). -/
theorem running_or_faulted_of_faults {s t : State} {f : FaultRecord} (h : step s = .next t) (ht : t.mode = .faulted f) :
    s.mode = .running ∨ s.mode = .faulted f := by
  obtain ⟨-, -, rfl⟩ | ⟨x, prev, -, rfl⟩ | ⟨-, hs, -⟩ | ⟨-, ⟨hs, -⟩, -⟩ := step_cases h
  · exact .inr ht
  · exact absurd ht (keyWaitPoll_notFaulted x prev s f)
  · exact .inl hs
  · exact .inl hs

/-- Settles O13: a step by the mode it begins in and the mode it ends in; then reset, tick and keypad. -/
theorem modeTransitions : Obligations.ModeTransitions := by
  refine ⟨fun s t h => ⟨fun hs x prev => aboutToRun_of_blocks h hs, fun x prev => mode_of_poll h,
    fun f => running_or_faulted_of_faults h⟩, fun s t rom h => ?_, fun s k => ⟨State.tick_mode s, rfl⟩⟩
  obtain ⟨-, rfl⟩ := State.resetWith_cases h
  rfl

/-! ### Who writes what -/

theorem SameBut.mono {ps qs : List Part} {s t : State} (h : SameBut ps s t) (hsub : ps ⊆ qs) : SameBut qs s t :=
  have up {p : Part} (hp : p ∉ qs) : p ∉ ps := fun hmem => hp (hsub hmem)
  ⟨h.mem ∘ up, h.v ∘ up, h.i ∘ up, h.pc ∘ up, h.stack ∘ up, h.sp ∘ up, h.dt ∘ up, h.st ∘ up, h.fb ∘ up, h.mode ∘ up,
    h.keys ∘ up, h.draws ∘ up, h.quirks ∘ up⟩

theorem sameBut_keyWaitPoll (x : Reg) (prev : Keypad) (s : State) : SameBut [.mode, .v, .pc] s (keyWaitPoll x prev s) := by
  obtain ⟨-, h⟩ | ⟨k, -, h⟩ := keyWaitPoll_cases x prev s <;> rw [h] <;> constructor <;> simp

/-- A step writes the mode, a register and PC at most, unless it runs an instruction, which writes what is listed for it. -/
theorem step_sameBut {s t : State} (h : step s = .next t) :
    SameBut [.mode, .v, .pc] s t ∨ ∃ i, s.AboutToRun i ∧ exec i s = .next t ∧ SameBut (writtenParts s.quirks i) s t := by
  obtain ⟨-, -, rfl⟩ | ⟨x, prev, -, rfl⟩ | ⟨f, -, -, rfl⟩ | ⟨i, hi, hexec⟩ := step_cases h
  · exact .inl (by constructor <;> simp)
  · exact .inl (sameBut_keyWaitPoll x prev s)
  · exact .inl ((sameBut_setMode s _).mono (by simp))
  · cases ends_of_exec hexec with
    | fault => exact .inl ((sameBut_setMode s _).mono (by simp))
    | effect hkept => exact .inr ⟨i, hi, hexec, hkept⟩

theorem State.exists_stackAt_ne {s t : State} (h : ∃ j, t.stackAt j ≠ s.stackAt j) : t.stack ≠ s.stack := by
  rintro heq
  obtain ⟨j, hj⟩ := h
  exact hj (by simp only [State.stackAt, heq])

theorem State.exists_pixel_ne {s t : State} (h : ∃ r c, t.pixel r c ≠ s.pixel r c) : t.fb ≠ s.fb := by
  rintro heq
  obtain ⟨r, c, hne⟩ := h
  exact hne (by simp only [State.pixel, heq])

theorem State.exists_readByte_ne {s t : State} (h : ∃ a, t.readByte a ≠ s.readByte a) : t.mem ≠ s.mem := by
  rintro heq
  obtain ⟨a, ha⟩ := h
  exact ha (by simp only [State.readByte, heq])

/-- Settles O18: a part that changed is one that the instruction writes. -/
theorem eachPartHasOnlyItsNamedWriters : Obligations.EachPartHasOnlyItsNamedWriters := by
  intro s t h
  obtain hkept | ⟨i, hi, -, hkept⟩ := step_sameBut h
  · exact ⟨fun hne => absurd (hkept.i (by simp)) hne,
      fun hne => absurd (hkept.stack (by simp)) (State.exists_stackAt_ne hne),
      fun hne => absurd (hkept.sp (by simp)) hne,
      fun hne => absurd (hkept.fb (by simp)) (State.exists_pixel_ne hne),
      fun hne => absurd (hkept.mem (by simp)) (State.exists_readByte_ne hne),
      hkept.keys (by simp), hkept.quirks (by simp)⟩
  · refine ⟨fun hne => ⟨i, hi, i_mem_writtenParts.mp (not_imp_comm.mp hkept.i hne)⟩, fun hne => ?_, fun hne => ?_,
      fun hne => ?_, fun hne => ?_, hkept.keys (keys_notMem_writtenParts _ i), hkept.quirks (quirks_notMem_writtenParts _ i)⟩
    · obtain ⟨nnn, rfl⟩ := stack_mem_writtenParts.mp (not_imp_comm.mp hkept.stack (State.exists_stackAt_ne hne))
      exact ⟨nnn, hi⟩
    · obtain rfl | ⟨nnn, rfl⟩ := sp_mem_writtenParts.mp (not_imp_comm.mp hkept.sp hne)
      · exact .inl hi
      · exact .inr ⟨nnn, hi⟩
    · obtain rfl | ⟨x, y, n, rfl⟩ := fb_mem_writtenParts.mp (not_imp_comm.mp hkept.fb (State.exists_pixel_ne hne))
      · exact .inl hi
      · exact .inr ⟨x, y, n, hi⟩
    · obtain ⟨x, rfl⟩ | ⟨x, rfl⟩ := mem_mem_writtenParts.mp (not_imp_comm.mp hkept.mem (State.exists_readByte_ne hne))
      · exact .inl ⟨x, hi⟩
      · exact .inr ⟨x, hi⟩

end Sys2Proof.Machine
end

section
/-! Which registers and which bytes of memory a step writes (10_state.md, 20_memory.md). -/

namespace Sys2Proof.Machine

/-! ### Registers -/

/-- An instruction that is not listed as a writer of V keeps every register. -/
theorem reg_of_v_notMem {i : Instr} {s t : State} (h : exec i s = .next t) (hv : Part.v ∉ writtenParts s.quirks i) (r : Reg) :
    t.reg r = s.reg r := by
  cases ends_of_exec h with
  | fault => rfl
  | effect hkept => simp only [State.reg, hkept.v hv]

/-- A register that the table of R24 does not list for the instruction keeps its value. -/
theorem reg_of_not_writesReg {i : Instr} {s t : State} {r : Reg} (h : exec i s = .next t) (hr : ¬ writesReg s.quirks i r) :
    t.reg r = s.reg r := by
  cases i with
  | ldByte | addByte | ldReg | rnd | ldVxDt =>
    cases h
    have hx : r ≠ _ := hr
    simp [randomMasked, hx]
  | addReg | subReg | subn | shr | shl =>
    cases h
    obtain ⟨hx, hvf⟩ := not_or.mp hr
    simp [hx, hvf]
  | orReg | andReg | xorReg =>
    cases h
    obtain ⟨hx, hvf⟩ := not_or.mp hr
    rw [State.reg_setLogicResult, State.advance_quirks, if_neg hvf, if_neg hx, State.advance_reg]
  | drw x y n =>
    have hvf : r ≠ VF := hr
    obtain ⟨-, rfl⟩ | ⟨j, -, -, rfl⟩ := whenInBounds_cases h
    · rw [State.reg_setFlag, if_neg hvf, State.setFb_reg, State.advance_reg]
    · rfl
  | addI x =>
    obtain ⟨hq, rfl⟩ | rfl := exec_addI_cases h
    · rw [State.reg_setFlag, if_neg fun hvf => hr ⟨hq, hvf⟩, State.setI_reg, State.advance_reg]
    · rfl
  | loadRegs x =>
    have hrx : ¬ r ≤ x := hr
    obtain ⟨-, rfl⟩ | ⟨j, -, -, rfl⟩ := whenInBounds_cases h
    · rw [State.setI_reg, State.reg_setRegs, State.getElem_regsFromMemory, if_neg hrx]
    · rfl
  | cls | ret | jp | call | seByte | sneByte | seReg | sneReg | ldI | jpV0 | skp | sknp | ldVxK | ldDtVx | ldStVx | ldF | ldB
  | storeRegs => exact reg_of_v_notMem h (by simp [writtenParts]) r

/-- Settles O19: a register that the table does not list keeps its value. -/
theorem registerWritersFollowTheTable : Obligations.RegisterWritersFollowTheTable := fun _ _ _ _ h hne =>
  by_contra fun hr => hne (reg_of_not_writesReg h hr)

/-! ### Memory -/

/-- The bytes that an instruction writes to memory stand at I and on, and each address passed the write check (R57 to R59). -/
theorem mem_of_exec {i : Instr} {s t : State} (h : exec i s = .next t) :
    t.mem = s.mem ∨ ∃ bs : List Byte, 0 < bs.length ∧ (∀ j, j < bs.length → WriteOk s.quirks (s.i.toNat + j)) ∧
      t.mem = Memory.writeBytes s.mem s.i.toNat bs := by
  cases ends_of_exec h with
  | fault => exact .inl rfl
  | effect hkept =>
    by_cases hmem : Part.mem ∈ writtenParts s.quirks i
    · obtain ⟨x, rfl⟩ | ⟨x, rfl⟩ := mem_mem_writtenParts.mp hmem
      · obtain ⟨hok, rfl⟩ | ⟨j, -, -, rfl⟩ := whenInBounds_cases h
        · exact .inr ⟨decimalDigits (s.reg x), by simp, fun j hj => badWrite_eq_false.mp (hok j hj), rfl⟩
        · exact .inl rfl
      · obtain ⟨hok, rfl⟩ | ⟨j, -, -, rfl⟩ := whenInBounds_cases h
        · exact .inr ⟨s.regsUpTo x, by simp, fun j hj => badWrite_eq_false.mp (hok j (by simpa using hj)), rfl⟩
        · exact .inl rfl
    · exact .inl (hkept.mem hmem)

/-- Settles O20: what a step writes to memory begins at I, which passed the check against the protection. -/
theorem protectedLowMemoryNeverChanges : Obligations.ProtectedLowMemoryNeverChanges := by
  intro s t hprotect h a ha
  obtain hkept | ⟨i, -, hexec, -⟩ := step_sameBut h
  · rw [State.readByte, hkept.mem (by simp), State.readByte]
  · obtain hmem | ⟨bs, hpos, hok, hmem⟩ := mem_of_exec hexec
    · rw [State.readByte, hmem, State.readByte]
    · obtain ⟨-, hlow⟩ := hok 0 hpos
      have hbase : 0x200 ≤ s.i.toNat := hlow hprotect
      rw [State.readByte, hmem, Memory.read_writeBytes_outside s.mem bs (.inl (by omega)), State.readByte]

end Sys2Proof.Machine
end

section
/-! Runs of steps (60_exceptions.md, 70_reset_and_hazards.md): every run answers, the keypad stands still during it, an idle run is a
fixed state, and a slice is a run between a keypad update and a tick. -/

namespace Sys2Proof.Machine

/-! ### Idle runs -/

theorem toNat_encode_jp {nnn : Word} (h : addrFits nnn = true) : (encode (.jp nnn)).toNat = 0x1000 + nnn.toNat := by
  have hnnn : nnn.toNat ≤ 0xFFF := of_decide_eq_true h
  have hlow : (nnn.extractLsb 11 0).toNat = nnn.toNat := by
    rw [BitVec.extractLsb_toNat, Nat.shiftRight_zero, Nat.mod_eq_of_lt (by omega)]
  rw [encode, formatNNN, BitVec.toNat_append, hlow, ← Nat.shiftLeft_add_eq_or_of_lt (by omega)]
  rfl

/-- An idle run is about to jump to where it stands (R246). -/
theorem aboutToRun_of_idleAt {s : State} {p : Nat} (h : s.IdleAt p) : s.AboutToRun (.jp s.pc) := by
  obtain ⟨hmode, rfl, hp, hword⟩ := h
  have hfits : addrFits s.pc = true := decide_eq_true (by omega)
  have hjp : s.wordAt s.pc.toNat = encode (.jp s.pc) := BitVec.eq_of_toNat_eq (hword.trans (toNat_encode_jp hfits).symm)
  exact ⟨hmode, hp, hjp ▸ decodeWord_encode hfits⟩

/-- Settles O55: the jump writes to PC what it holds, and a tick keeps the mode, PC and memory. -/
theorem idleRunsStayIdle : Obligations.IdleRunsStayIdle := by
  intro s p h
  have hfixed : step s = .next s := (step_of_aboutToRun (aboutToRun_of_idleAt h)).trans (exec_jp s.pc s)
  refine ⟨State.observedAfter_of_fixed hfixed, ?_⟩
  obtain ⟨hmode, hidle⟩ := h
  rw [State.tick_of_notFaulted (notFaulted_of_running hmode)]
  exact ⟨hmode, hidle⟩

/-! ### The keypad and the length of a run -/

theorem keys_of_step {s t : State} (h : step s = .next t) : t.keys = s.keys := by
  obtain hkept | ⟨i, -, -, hkept⟩ := step_sameBut h
  · exact hkept.keys (by simp)
  · exact hkept.keys (keys_notMem_writtenParts _ i)

theorem keys_of_observedAfter {s t : State} {k : Nat} (h : s.ObservedAfter k t) : t.keys = s.keys := by
  induction k generalizing s with
  | zero => rw [(State.observedAfter_zero s t).mp h]
  | succ k ih =>
    obtain ⟨u, hu, hrun⟩ := (State.observedAfter_succ s t k).mp h
    exact (ih hrun).trans (keys_of_step hu)

theorem exists_observedAfter (s : State) (k : Nat) : ∃ t, s.ObservedAfter k t := by
  induction k generalizing s with
  | zero => exact ⟨s, (State.observedAfter_zero s s).mpr rfl⟩
  | succ k ih =>
    obtain ⟨u, hu⟩ := exists_step s
    obtain ⟨t, ht⟩ := ih u
    exact ⟨t, (State.observedAfter_succ s t k).mpr ⟨u, hu, ht⟩⟩

/-! ### Slices -/

/-- Steps as commands and then a tick are the run of those steps, ticked (R217). -/
theorem observedAfter_of_runCommands {s t : State} {n : Nat}
    (h : runCommands (List.replicate n Command.step ++ [Command.tick]) s = .next t) :
    ∃ u, s.ObservedAfter n u ∧ t = u.tick := by
  induction n generalizing s with
  | zero =>
    cases h
    exact ⟨s, (State.observedAfter_zero s s).mpr rfl, rfl⟩
  | succ n ih =>
    obtain ⟨u, hu⟩ := exists_step s
    rw [List.replicate_succ, List.cons_append, runCommands, command_step hu] at h
    obtain ⟨v, hv, ht⟩ := ih h
    exact ⟨v, (State.observedAfter_succ s v n).mpr ⟨u, hu, hv⟩, ht⟩

/-- Settles O56: after the keypad update, a slice is a run and its tick; no step of the run writes the keypad. -/
theorem sliceStepsSeeOneKeypadAndTickOnce : Obligations.SliceStepsSeeOneKeypadAndTickOnce := by
  intro s t k n h
  have hsteps : runCommands (List.replicate n Command.step ++ [Command.tick]) (s.setKeys k) = .next t := h
  refine ⟨fun j _ => ?_, observedAfter_of_runCommands hsteps⟩
  obtain ⟨u, hu⟩ := exists_observedAfter (s.setKeys k) j
  exact ⟨u, hu, keys_of_observedAfter hu⟩

end Sys2Proof.Machine
end

section
/-! The machine's invariant: it holds at reset, and every step and every command keeps it (R26, R50, R163, R202, R204). -/

namespace Sys2Proof.Machine

/-! ### Building the invariant -/

theorem explains_congr {s t : State} (hmem : t.mem = s.mem) (hsp : t.sp = s.sp) (hquirks : t.quirks = s.quirks)
    {f : FaultRecord} (h : s.Explains f) : t.Explains f := by
  cases f <;> simpa only [State.Explains, State.wordAt, State.readByte, hmem, hsp, hquirks] using h

/-- In mode Running the invariant is what it says of memory, PC and the stack. -/
theorem inv_of_running {s : State} (hmem : Memory.wf s.mem) (hpc : s.pc.toNat ≤ 0x10FE)
    (hstack : ∀ j : Fin 16, j.val < s.sp.val → (s.stackAt j).toNat ≤ 0x1000) (hmode : s.mode = .running) : s.Inv where
  memWf := hmem
  pcBound := hpc
  stackBound := hstack
  blockedAtKeyWait x prev h := by cases hmode.symm.trans h
  faultedAtFault f h := by cases hmode.symm.trans h

/-- A wait that begins or goes on at the key-wait's word keeps the invariant. -/
theorem State.Inv.setMode_blocked {s : State} (hs : s.Inv) {x : Reg} (hpc : s.pc.toNat ≤ 0xFFE)
    (hword : s.wordAt s.pc.toNat = encode (.ldVxK x)) (prev : Keypad) : (s.setMode (.blocked x prev)).Inv where
  memWf := hs.memWf
  pcBound := hs.pcBound
  stackBound := hs.stackBound
  blockedAtKeyWait y p h := by
    cases h
    exact ⟨hpc, hword⟩
  faultedAtFault f h := by cases h

/-- A fault whose record tells the truth keeps the invariant. -/
theorem State.Inv.setMode_faulted {s : State} (hs : s.Inv) {f : FaultRecord} (hpc : f.pc = s.pc) (hf : s.Explains f) :
    (s.setMode (.faulted f)).Inv where
  memWf := hs.memWf
  pcBound := hs.pcBound
  stackBound := hs.stackBound
  blockedAtKeyWait x prev h := by cases h
  faultedAtFault g h := by
    cases h
    exact ⟨hpc, explains_congr (State.setMode_mem ..) (State.setMode_sp ..) (State.setMode_quirks ..) hf⟩

/-- The invariant mentions neither the registers, the timers, the keypad, the framebuffer nor the count of draws. -/
theorem SameBut.inv {s t : State} (h : SameBut [.v, .i, .dt, .st, .fb, .keys, .draws] s t) (hs : s.Inv) : t.Inv := by
  have hmem : t.mem = s.mem := h.mem (by simp)
  have hpc : t.pc = s.pc := h.pc (by simp)
  have hsp : t.sp = s.sp := h.sp (by simp)
  have hmode : t.mode = s.mode := h.mode (by simp)
  have hstack (j : Fin 16) : t.stackAt j = s.stackAt j := by simp only [State.stackAt, h.stack (by simp)]
  have hword (a : Nat) : t.wordAt a = s.wordAt a := by simp only [State.wordAt, State.readByte, hmem]
  exact {
    memWf := hmem ▸ hs.memWf
    pcBound := hpc ▸ hs.pcBound
    stackBound := fun j hj => by rw [hstack]; exact hs.stackBound j (hsp ▸ hj)
    blockedAtKeyWait := fun x prev hb => by rw [hpc, hword]; exact hs.blockedAtKeyWait x prev (hmode ▸ hb)
    faultedAtFault := fun f hf => by
      obtain ⟨hfpc, hexp⟩ := hs.faultedAtFault f (hmode ▸ hf)
      exact ⟨hfpc.trans hpc.symm, explains_congr hmem hsp (h.quirks (by simp)) hexp⟩ }

/-- Settles O14: reset runs at 0x200 with an empty stack. -/
theorem resetMeetsTheInvariant : Obligations.ResetMeetsTheInvariant :=
  inv_of_running Memory.wf_reset (by decide) (fun _ hj => absurd hj (Nat.not_lt_zero _)) rfl

/-! ### Faults tell the truth -/

/-- What the fault of an instruction says is true of the state (R206, R207). -/
theorem Raises.explains {s : State} {i : Instr} {f : FaultRecord} (h : Raises s i f) : s.Explains f := by
  have hread {a : Nat} (ha : ¬ ReadOk a) : a > 0xFFF := not_le.mp ha
  have hwrite {a : Nat} (ha : ¬ WriteOk s.quirks a) : a > 0xFFF ∨ (s.quirks.protectLowMemory = true ∧ a < 0x200) := by
    rcases not_and_or.mp ha with hhigh | hlow
    · exact .inl (not_le.mp hhigh)
    · obtain ⟨hprotect, hbase⟩ := Classical.not_imp.mp hlow
      exact .inr ⟨hprotect, not_le.mp hbase⟩
  cases h with
  | call nnn hsp => exact hsp
  | ret hsp => exact hsp
  | drw x y n ha | loadRegs x ha => exact .inl (hread ha)
  | ldB x ha | storeRegs x ha => exact hwrite ha

/-- What a fault of fetch or decode says is true of the state (R53, R84). -/
theorem explains_of_fetchDecode_error {s : State} {f : FaultRecord} (h : fetchDecode s = .error f) : s.Explains f := by
  obtain ⟨hpc, rfl⟩ | ⟨hpc, hdec, rfl⟩ := fetchDecode_error h
  · refine .inl ?_
    split <;> omega
  · refine ⟨hpc, rfl, fun r hr => Bool.eq_false_iff.mpr fun hmatch => ?_⟩
    have hsome := isSome_decodeOp_of_matches hr hmatch
    rw [hdec] at hsome
    exact Bool.false_ne_true hsome

/-! ### An instruction keeps the invariant -/

theorem State.toNat_nxt {s : State} (h : s.pc.toNat ≤ 0xFFE) : s.nxt.toNat = s.pc.toNat + 2 := by
  simp only [State.nxt, BitVec.toNat_add, BitVec.toNat_ofNat]
  omega

theorem wf_mem_of_exec {i : Instr} {s t : State} (hwf : Memory.wf s.mem) (h : exec i s = .next t) : Memory.wf t.mem := by
  obtain hmem | ⟨bs, hpos, hok, hmem⟩ := mem_of_exec h
  · rwa [hmem]
  · rw [hmem]
    exact Memory.wf_writeBytes hwf (le_memSize_of_writeOk hpos hok)

/-- Both targets of a skip are near its own address. -/
theorem toNat_skipIf_pc_le {s : State} (h : s.pc.toNat ≤ 0xFFE) (b : Bool) : (s.skipIf b).pc.toNat ≤ 0x10FE := by
  have hnxt := State.toNat_nxt h
  rw [State.skipIf_pc]
  split
  · rw [BitVec.toNat_add, hnxt, BitVec.toNat_ofNat]
    omega
  · omega

/-- `JP V0` has the largest target, 0xFFF + 0xFF (R143). -/
theorem toNat_addr_add_byte_le {nnn : Word} (h : addrFits nnn = true) (b : Byte) : (nnn + b.setWidth 16).toNat ≤ 0x10FE := by
  have hnnn : nnn.toNat ≤ 0xFFF := of_decide_eq_true h
  have hb : b.toNat < 256 := b.isLt
  rw [toNat_addr_add_byte h]
  omega

/-- PC after a well-formed instruction that was fetched from memory. -/
theorem toNat_pc_of_exec {i : Instr} {s t : State} (hs : s.Inv) (hpc : s.pc.toNat ≤ 0xFFE) (hi : i.wellFormed = true)
    (h : exec i s = .next t) : t.pc.toNat ≤ 0x10FE := by
  have hkeep : s.pc.toNat ≤ 0x10FE := hs.pcBound
  have hnxt : s.nxt.toNat ≤ 0x10FE := by rw [State.toNat_nxt hpc]; omega
  cases i with
  | jp nnn =>
    cases h
    exact (of_decide_eq_true hi : nnn.toNat ≤ 0xFFF).trans (by omega)
  | call nnn =>
    obtain ⟨hroom, rfl⟩ | ⟨-, rfl⟩ := exec_call_cases h
    · exact (of_decide_eq_true hi : nnn.toNat ≤ 0xFFF).trans (by omega)
    · exact hkeep
  | ret =>
    obtain ⟨hpos, rfl⟩ | ⟨-, rfl⟩ := exec_ret_cases h
    · exact (hs.stackBound _ (Nat.sub_one_lt_of_lt hpos)).trans (by omega)
    · exact hkeep
  | jpV0 nnn =>
    cases h
    exact toNat_addr_add_byte_le hi _
  | seByte | sneByte | seReg | sneReg | skp | sknp =>
    cases h
    exact toNat_skipIf_pc_le hpc _
  | ldVxK x =>
    cases h
    exact hkeep
  | drw | ldB | storeRegs | loadRegs =>
    obtain ⟨-, rfl⟩ | ⟨j, -, -, rfl⟩ := whenInBounds_cases h
    · exact hnxt
    · exact hkeep
  | addI x =>
    obtain ⟨-, rfl⟩ | rfl := exec_addI_cases h
    · exact hnxt
    · exact hnxt
  | orReg | andReg | xorReg =>
    cases h
    rw [State.setLogicResult_pc]
    exact hnxt
  | cls | ldByte | addByte | ldReg | addReg | subReg | subn | shr | shl | rnd | ldI | ldF | ldVxDt | ldDtVx | ldStVx =>
    cases h
    exact hnxt

/-- The return addresses in use after an instruction: a call adds `a + 2`, and a return only takes one away (R141, R142). -/
theorem stackBound_of_exec {i : Instr} {s t : State} (hs : s.Inv) (hpc : s.pc.toNat ≤ 0xFFE) (h : exec i s = .next t) :
    ∀ j : Fin 16, j.val < t.sp.val → (t.stackAt j).toNat ≤ 0x1000 := by
  cases ends_of_exec h with
  | fault => exact hs.stackBound
  | effect hkept =>
    by_cases hsp : Part.sp ∈ writtenParts s.quirks i
    · obtain rfl | ⟨nnn, rfl⟩ := sp_mem_writtenParts.mp hsp
      · obtain ⟨hpos, rfl⟩ | ⟨-, rfl⟩ := exec_ret_cases h
        · exact fun j hj => hs.stackBound j (Nat.lt_of_lt_pred hj)
        · exact hs.stackBound
      · obtain ⟨hroom, rfl⟩ | ⟨-, rfl⟩ := exec_call_cases h
        · intro j hj
          by_cases hjsp : j.val = s.sp.val
          · obtain rfl : j = ⟨s.sp.val, hroom⟩ := Fin.ext hjsp
            rw [State.setPc_stackAt, State.stackAt_setStack_set_self, State.toNat_nxt hpc]
            omega
          · rw [State.setPc_stackAt, State.stackAt_setStack_set_ne s s.nxt _ hroom hjsp]
            exact hs.stackBound j (Nat.lt_of_le_of_ne (Nat.le_of_lt_succ hj) hjsp)
        · exact hs.stackBound
    · have hstack : Part.stack ∉ writtenParts s.quirks i := fun hmem =>
        hsp (sp_mem_writtenParts.mpr (.inr (stack_mem_writtenParts.mp hmem)))
      intro j hj
      simp only [State.stackAt, hkept.stack hstack]
      exact hs.stackBound j (hkept.sp hsp ▸ hj)

/-- An instruction that the machine was about to run keeps the invariant. -/
theorem State.Inv.exec {i : Instr} {s t : State} (hs : s.Inv) (hi : s.AboutToRun i) (h : exec i s = .next t) : t.Inv := by
  obtain ⟨hmode, hpc, hdec⟩ := hi
  have hop : decodeOp (s.wordAt s.pc.toNat) = some i := decodeWord_eq_ok.mp hdec
  cases hmt : t.mode with
  | running =>
    exact inv_of_running (wf_mem_of_exec hs.memWf h) (toNat_pc_of_exec hs hpc (wellFormed_of_decodeOp hop) h)
      (stackBound_of_exec hs hpc h) hmt
  | blocked x prev =>
    obtain ⟨rfl, rfl, -⟩ := blocked_of_exec hmode h hmt
    exact hs.setMode_blocked hpc (encode_of_decodeOp hop).symm s.keys
  | faulted f =>
    obtain ⟨hraises, rfl⟩ := raises_of_exec (notFaulted_of_running hmode) h hmt
    exact hs.setMode_faulted hraises.pc_eq hraises.explains

/-! ### Steps and commands -/

/-- A poll stays at the key-wait, or moves past it and runs on. -/
theorem State.Inv.keyWaitPoll {s : State} {x : Reg} {prev : Keypad} (hs : s.Inv) (hmode : s.mode = .blocked x prev) :
    (keyWaitPoll x prev s).Inv := by
  obtain ⟨hpc, hword⟩ := hs.blockedAtKeyWait x prev hmode
  obtain ⟨-, hpoll⟩ | ⟨k, -, hpoll⟩ := keyWaitPoll_cases x prev s
  · rw [hpoll]
    exact hs.setMode_blocked hpc hword s.keys
  · have hnxt : s.nxt.toNat ≤ 0x10FE := by rw [State.toNat_nxt hpc]; omega
    rw [hpoll]
    exact inv_of_running hs.memWf hnxt hs.stackBound rfl

/-- Settles O15: each of the four things that a step can be keeps the invariant. -/
theorem everyStepKeepsTheInvariant : Obligations.EveryStepKeepsTheInvariant := by
  intro s t hs h
  obtain ⟨-, -, rfl⟩ | ⟨x, prev, hmode, rfl⟩ | ⟨f, -, hf, rfl⟩ | ⟨i, hi, hexec⟩ := step_cases h
  · exact hs
  · exact hs.keyWaitPoll hmode
  · exact hs.setMode_faulted (fetchDecode_error_pc hf) (explains_of_fetchDecode_error hf)
  · exact hs.exec hi hexec

theorem sameBut_tick (s : State) : SameBut [.dt, .st] s s.tick := by
  unfold State.tick
  split <;> constructor <;> simp

/-- A reset meets the invariant whatever the state before it. -/
theorem inv_of_resetWith {s t : State} {rom : List Byte} (h : s.resetWith rom = .ok t) : t.Inv := by
  obtain ⟨hfits, rfl⟩ := State.resetWith_cases h
  have hpc : State.reset.pc.toNat ≤ 0x10FE := by decide
  exact inv_of_running (Memory.wf_writeBytes Memory.wf_nil (Nat.add_le_add_left hfits 0x200)) hpc
    (fun _ hj => absurd hj (Nat.not_lt_zero _)) rfl

/-- Settles O16: tick and keypad write no part that the invariant mentions, and a failed reset writes nothing. -/
theorem everyCommandKeepsTheInvariant : Obligations.EveryCommandKeepsTheInvariant := by
  intro s c a hs h
  cases c with
  | step =>
    obtain ⟨t, ht⟩ := exists_step s
    obtain rfl := next_unique (command_step ht) h
    exact everyStepKeepsTheInvariant s t hs ht
  | tick =>
    cases h
    exact ((sameBut_tick s).mono (by simp)).inv hs
  | keys k =>
    cases h
    exact SameBut.inv (by constructor <;> simp) hs
  | reset rom =>
    simp only [command] at h
    split at h
    next t ht =>
      cases h
      exact inv_of_resetWith ht
    next =>
      cases h
      exact hs

end Sys2Proof.Machine
end

section
/-! What a program cannot see (10_state.md): the value of ST (R28), and the entries of STACK at and above SP (R27). An instruction that
writes neither ST nor SP does the same whatever they hold; the three that do are taken one by one. -/

namespace Sys2Proof.Machine

/-! ### Another ST and another STACK -/

/-- The state with another value in ST and other entries in STACK. -/
def State.hide (s : State) (z : Byte) (k : Vector Word 16) : State := { s with st := z, stack := k }

/-- The outcome with another ST and another STACK in its next state. -/
def hideNext (z : Byte) (k : Vector Word 16) : Host.Outcome State Fault Refusal → Host.Outcome State Fault Refusal
  | .next t => .next (t.hide z k)
  | .fault r => .fault r
  | .refused r => .refused r

theorem hideNext_whenInBounds (z : Byte) (k : Vector Word 16) (bad : Nat → Bool) (base n : Nat) (s e : State) :
    hideNext z k (whenInBounds bad base n s e) = whenInBounds bad base n (s.hide z k) (e.hide z k) := by
  unfold whenInBounds
  split <;> rfl

theorem State.hide_setLogicResult (s : State) (z : Byte) (k : Vector Word 16) (x : Reg) (r : Byte) :
    (s.setLogicResult x r).hide z k = (s.hide z k).setLogicResult x r :=
  apply_ite (State.hide · z k) (s.quirks.logicResetsVf = true) _ _

/-- An instruction that does not write ST or SP reads neither ST nor STACK. -/
theorem hideNext_exec {i : Instr} {s : State} (hst : Part.st ∉ writtenParts s.quirks i) (hsp : Part.sp ∉ writtenParts s.quirks i)
    (z : Byte) (k : Vector Word 16) : hideNext z k (exec i s) = exec i (s.hide z k) := by
  cases i with
  | ldStVx => simp [writtenParts] at hst
  | call | ret => simp [writtenParts] at hsp
  | drw | ldB | storeRegs | loadRegs => exact hideNext_whenInBounds ..
  | orReg | andReg | xorReg => exact congrArg Host.Outcome.next (State.hide_setLogicResult ..)
  | addI x => exact congrArg Host.Outcome.next (apply_ite (State.hide · z k) (s.quirks.addIFlag = true) _ _)
  | cls | jp | jpV0 | seByte | sneByte | seReg | sneReg | skp | sknp | ldByte | addByte | ldReg | addReg | subReg | subn
  | shr | shl | rnd | ldI | ldF | ldVxDt | ldVxK | ldDtVx => rfl

theorem st_mem_writtenParts {q : Quirks} {i : Instr} : Part.st ∈ writtenParts q i ↔ ∃ x, i = .ldStVx x := by
  cases i <;> simp [writtenParts]

/-! ### A step from another ST and another STACK -/

/-- The entries of `k` that SP has in use are those of the state. -/
def State.AgreesInUse (s : State) (k : Vector Word 16) : Prop := ∀ j : Fin 16, j.val < s.sp.val → k[j.val] = s.stackAt j

/-- From `s` with `z` in ST and `k` in STACK, the outcome is `t` with some ST and some STACK that agrees with it in use; each of the
two is as in `t` if it was as in `s`. -/
def Follows (s : State) (z : Byte) (k : Vector Word 16) (t : State) (o : Host.Outcome State Fault Refusal) : Prop :=
  ∃ z' k', o = .next (t.hide z' k') ∧ t.AgreesInUse k' ∧ (z = s.st → z' = t.st) ∧ (k = s.stack → k' = t.stack)

section Following

variable {s t : State} {z : Byte} {k : Vector Word 16} {o : Host.Outcome State Fault Refusal}

/-- Where neither ST nor the stack is written, both keep their other values. -/
theorem follows_of_kept (hk : s.AgreesInUse k) (ho : o = .next (t.hide z k)) (hst : t.st = s.st) (hsp : t.sp = s.sp)
    (hstack : t.stack = s.stack) : Follows s z k t o := by
  refine ⟨z, k, ho, fun j hj => ?_, fun h => h.trans hst.symm, fun h => h.trans hstack.symm⟩
  rw [hk j (hsp ▸ hj)]
  simp only [State.stackAt, hstack]

/-- A return reads the top entry in use, and leaves one less in use (R142). -/
theorem follows_ret (hk : s.AgreesInUse k) (h : exec .ret s = .next t) : Follows s z k t (exec .ret (s.hide z k)) := by
  obtain ⟨hpos, rfl⟩ | ⟨hempty, rfl⟩ := exec_ret_cases h
  · refine ⟨z, k, ?_, fun j hj => hk j (Nat.lt_of_lt_pred hj), id, id⟩
    rw [← hk ⟨s.sp.val - 1, by omega⟩ (Nat.sub_one_lt_of_lt hpos)]
    exact exec_ret_of_pos (s := s.hide z k) hpos
  · exact follows_of_kept hk (exec_ret_of_zero (s := s.hide z k) hempty) rfl rfl rfl

/-- A call writes the entry that it takes into use (R141). -/
theorem follows_call (hk : s.AgreesInUse k) {nnn : Word} (h : exec (.call nnn) s = .next t) :
    Follows s z k t (exec (.call nnn) (s.hide z k)) := by
  obtain ⟨hroom, rfl⟩ | ⟨hfull, rfl⟩ := exec_call_cases h
  · refine ⟨z, k.set s.sp.val s.nxt hroom, exec_call_of_lt (s := s.hide z k) nnn hroom, fun j hj => ?_, id,
      fun hkeep => by rw [hkeep]; rfl⟩
    by_cases hjsp : j.val = s.sp.val
    · simp [State.stackAt, hjsp]
    · rw [Vector.getElem_set_ne _ _ (Ne.symm hjsp), hk j (Nat.lt_of_le_of_ne (Nat.le_of_lt_succ hj) hjsp), State.setPc_stackAt,
        State.stackAt_setStack_set_ne s s.nxt _ hroom hjsp]
  · exact follows_of_kept hk (exec_call_of_full (s := s.hide z k) nnn hfull) rfl rfl rfl

theorem follows_exec {i : Instr} (hk : s.AgreesInUse k) (h : exec i s = .next t) : Follows s z k t (exec i (s.hide z k)) := by
  by_cases hst : Part.st ∈ writtenParts s.quirks i
  · obtain ⟨x, rfl⟩ := st_mem_writtenParts.mp hst
    cases h
    exact ⟨s.reg x, k, rfl, hk, fun _ => rfl, id⟩
  by_cases hsp : Part.sp ∈ writtenParts s.quirks i
  · obtain rfl | ⟨nnn, rfl⟩ := sp_mem_writtenParts.mp hsp
    · exact follows_ret hk h
    · exact follows_call hk h
  have hstack : Part.stack ∉ writtenParts s.quirks i := fun hmem =>
    hsp (sp_mem_writtenParts.mpr (.inr (stack_mem_writtenParts.mp hmem)))
  have hhide : exec i (s.hide z k) = .next (t.hide z k) := by rw [← hideNext_exec hst hsp, h, hideNext]
  cases ends_of_exec h with
  | fault => exact follows_of_kept hk hhide rfl rfl rfl
  | effect hkept => exact follows_of_kept hk hhide (hkept.st hst) (hkept.sp hsp) (hkept.stack hstack)

theorem follows_keyWaitPoll (hk : s.AgreesInUse k) (x : Reg) (prev : Keypad) :
    Follows s z k (keyWaitPoll x prev s) (.next (keyWaitPoll x prev (s.hide z k))) := by
  have hkept := sameBut_keyWaitPoll x prev s
  refine follows_of_kept hk (congrArg Host.Outcome.next ?_) (hkept.st (by simp)) (hkept.sp (by simp)) (hkept.stack (by simp))
  unfold keyWaitPoll State.hide
  cases lowestNewKey s.keys prev <;> rfl

/-- ST and the entries out of use can be learnt from no step: whatever they hold, the step does the same to everything else. -/
theorem follows_step (hk : s.AgreesInUse k) (h : step s = .next t) : Follows s z k t (step (s.hide z k)) := by
  obtain ⟨f, hf, rfl⟩ | ⟨x, prev, hmode, rfl⟩ | ⟨f, hmode, hf, rfl⟩ | ⟨i, hi, hexec⟩ := step_cases h
  · exact follows_of_kept hk (step_of_faulted (s := t.hide z k) hf) rfl rfl rfl
  · rw [step_of_blocked (s := s.hide z k) hmode]
    exact follows_keyWaitPoll hk x prev
  · exact follows_of_kept hk (step_of_fetchDecode_error (s := s.hide z k) hmode hf) rfl rfl rfl
  · rw [step_of_aboutToRun (s := s.hide z k) hi]
    exact follows_exec hk hexec

end Following

/-- Settles O22: the STACK is the same, so the two states after the step differ in ST at most. -/
theorem soundTimerIsInvisibleToPrograms : Obligations.SoundTimerIsInvisibleToPrograms := by
  intro s t z h
  obtain ⟨z', k', hstep, -, -, hstack⟩ := follows_step (z := z) (k := s.stack) (fun _ _ => rfl) h
  rw [hstack rfl] at hstep
  exact ⟨z', hstep⟩

/-- Settles O23: ST is the same, so the two states after the step differ in entries out of use at most. -/
theorem staleStackEntriesAreInvisible : Obligations.StaleStackEntriesAreInvisible := by
  intro s t k hk h
  obtain ⟨z', k', hstep, hagree, hst, -⟩ := follows_step (z := s.st) hk h
  rw [hst rfl] at hstep
  exact ⟨k', hstep, hagree⟩

end Sys2Proof.Machine
end
